-- ==== Sys2Proof/Word.lean ====
section
/-! DEFINITION. The value types every port carries: a Bit and the five bus widths (10_state.md R13, R14, R15). -/

namespace Sys2Proof

/-- A byte of the model's own netlist image; the core itself has no bytes (20_memory.md R32). -/
abbrev Byte := BitVec 8

/-- A Bit: `1` is `true` (10_state.md R13, 92_eei_decisions.md D23). -/
abbrev Bit := Bool

/-- A Bus_N: the width is part of the type (10_state.md R15). Position `i` of the spec, index 0 most
significant, is `getMsbD i`; `uint` is `toNat` and `sint` is `toInt` (00_scope.md R9, R10, R11). -/
abbrev Bus (n : Nat) := BitVec n

/-- `ZERO16`, a tie-off (30_encoding.md R49). -/
abbrev ZERO16 : Bus 16 := 0x0000#16

/-- `ONE16 = bus_16(1)`, a tie-off: its single `1` is at index 15 (30_encoding.md R49). -/
abbrev ONE16 : Bus 16 := 0x0001#16

/-- The types a port can have; no other bus width exists (10_state.md R14). -/
inductive Ty where
  | bit | bus2 | bus3 | bus4 | bus8 | bus16
deriving DecidableEq, Repr

/-- The value a port carries: a Bit or a Bus_N, every Bit of it driven (10_state.md R15, R18). -/
inductive Value where
  | bit (b : Bit)
  | bus2 (v : Bus 2)
  | bus3 (v : Bus 3)
  | bus4 (v : Bus 4)
  | bus8 (v : Bus 8)
  | bus16 (v : Bus 16)
deriving DecidableEq, Repr

/-- The type of a value. -/
def Value.ty : Value → Ty
  | .bit _ => .bit
  | .bus2 _ => .bus2
  | .bus3 _ => .bus3
  | .bus4 _ => .bus4
  | .bus8 _ => .bus8
  | .bus16 _ => .bus16

/-- The number of positions of a bus type; a Bit is no bus and has none. -/
def Ty.positions : Ty → Nat
  | .bit => 0
  | .bus2 => 2
  | .bus3 => 3
  | .bus4 => 4
  | .bus8 => 8
  | .bus16 => 16

/-- The bus type of a given width, where one exists (00_scope.md R7). -/
def Ty.ofPositions : Nat → Option Ty
  | 2 => some .bus2
  | 3 => some .bus3
  | 4 => some .bus4
  | 8 => some .bus8
  | 16 => some .bus16
  | _ => none

/-- The outputs of a 2-way demultiplexer, `a` being output 0 (42_selectors.md R92). -/
structure Out2 (α : Type) where
  (a b : α)
deriving DecidableEq, Repr

/-- The outputs of a 4-way demultiplexer, by selector value (42_selectors.md R97). -/
structure Out4 (α : Type) where
  (a b c d : α)
deriving DecidableEq, Repr

/-- The outputs of an 8-way demultiplexer, by selector value (42_selectors.md R101). -/
structure Out8 (α : Type) where
  (a b c d e f g h : α)
deriving DecidableEq, Repr

/-- The outputs of `HalfAdder` and `FullAdder` (43_arith.md R103, R104). -/
structure SumCarry where
  (sum carry : Bit)
deriving DecidableEq, Repr

/-- The outputs of the ALU (44_alu.md R108). -/
structure AluOut where
  out : Bus 16
  zr : Bit
  ng : Bit
deriving DecidableEq, Repr

/-- The ALU control word, an ordered 6-tuple of Bits (10_state.md R16, 30_encoding.md R46). -/
structure ControlWord where
  (zx nx zy ny f no : Bit)
deriving DecidableEq, Repr

end Sys2Proof
end

