-- ==== Sys2Proof/Syntax.lean ====
section
/-! DEFINITION. The syntax: wires, the argument forms of a port, the 62 rows of the opcode table (`Comp`) and a
component instance of a netlist (`Instr`) (30_encoding.md R45, R54; 92_eei_decisions.md D14, D16). -/

namespace Sys2Proof

/-- The name of an instance or of an input port of the netlist: a natural number, so that a netlist can hold any number
of instances (60_exceptions.md R144). DESIGN CHOICE: numbers for the spec's words, log entry 4. -/
abbrev Name := Nat

/-- The output ports of the components (30_encoding.md R45; 92_eei_decisions.md D14). -/
inductive OutPort where
  | out | sum | carry | zr | ng
  | a | b | c | d | e | f | g | h
deriving DecidableEq, Repr

/-- A source of a wire: an input port of the netlist, or `name.port`, an output of an instance
(92_eei_decisions.md D16). -/
inductive Net where
  | input (k : Name)
  | wire (d : Name) (p : OutPort)
deriving DecidableEq, Repr

/-- One position of a bus given position by position: a tie-off, a Bit wire, or `v[i]` (00_scope.md section 5). -/
inductive BitSrc where
  | tie (b : Bit)
  | net (n : Net)
  | pos (n : Net) (i : Fin 16)
deriving DecidableEq, Repr

/-- The argument wired to an input port: a constant, a whole port or wire, the Bit `v[i]`, the slice `v[i..j]`, or a
bus given position by position from index 0 (30_encoding.md R49, R54; 00_scope.md section 5; the last form DEDUCED,
log entry 13; one Bit may stand at several of its positions, DESIGN CHOICE, log entry 24). -/
inductive Src where
  | tie (v : Value)
  | net (n : Net)
  | pos (n : Net) (i : Fin 16)
  | slice (n : Net) (i j : Fin 16)
  | assemble (bs : List BitSrc)
deriving DecidableEq, Repr

/-- The rows of opcode_table.json: the primitive, the 43 components and the 18 canonical ALU control words. -/
inductive Comp where
  | p | not | and | or | xor | not2 | not3 | not4 | not8 | not16 | and2 | and3 | and4 | and8 | and16 | or2
  | or3 | or4 | or8 | or16 | xor2 | xor3 | xor4 | xor8 | xor16 | fanout16 | or8Way | mux | mux16 | mux4Way16
  | mux4Way | mux8Way16 | mux8Way | dMux | dMux16 | dMux4Way | dMux4Way16 | dMux8Way | dMux8Way16 | halfAdder
  | fullAdder | add16 | inc16 | alu | aluZero | aluOne | aluNegOne | aluX | aluY | aluNotX | aluNotY
  | aluNegX | aluNegY | aluXPlusOne | aluYPlusOne | aluXMinusOne | aluYMinusOne | aluXPlusY | aluXMinusY
  | aluYMinusX | aluXAndY | aluXOrY
deriving DecidableEq, Repr

/-- An instance of a component in a netlist, `d = Component(arg, ...)` (30_encoding.md R54): `d` is its name, then come
the arguments of its input ports in the order of 30_encoding.md R45. The selector port `s` is written `sel` and the
port `i` of a demultiplexer `inp`. The canonical control words have their control Bits tied off
(44_alu.md R113 to R130). -/
inductive Instr where
  /-- `P` (R56). -/
  | p (d : Name) (a b : Src)
  /-- `Not` (R59). -/
  | not (d : Name) (a : Src)
  /-- `And` (R60). -/
  | and (d : Name) (a b : Src)
  /-- `Or` (R61). -/
  | or (d : Name) (a b : Src)
  /-- `Xor` (R62). -/
  | xor (d : Name) (a b : Src)
  /-- `Not2` (R66). -/
  | not2 (d : Name) (a : Src)
  /-- `Not3` (R67). -/
  | not3 (d : Name) (a : Src)
  /-- `Not4` (R68). -/
  | not4 (d : Name) (a : Src)
  /-- `Not8` (R69). -/
  | not8 (d : Name) (a : Src)
  /-- `Not16` (R70). -/
  | not16 (d : Name) (a : Src)
  /-- `And2` (R71). -/
  | and2 (d : Name) (a b : Src)
  /-- `And3` (R72). -/
  | and3 (d : Name) (a b : Src)
  /-- `And4` (R73). -/
  | and4 (d : Name) (a b : Src)
  /-- `And8` (R74). -/
  | and8 (d : Name) (a b : Src)
  /-- `And16` (R75). -/
  | and16 (d : Name) (a b : Src)
  /-- `Or2` (R76). -/
  | or2 (d : Name) (a b : Src)
  /-- `Or3` (R77). -/
  | or3 (d : Name) (a b : Src)
  /-- `Or4` (R78). -/
  | or4 (d : Name) (a b : Src)
  /-- `Or8` (R79). -/
  | or8 (d : Name) (a b : Src)
  /-- `Or16` (R80). -/
  | or16 (d : Name) (a b : Src)
  /-- `Xor2` (R81). -/
  | xor2 (d : Name) (a b : Src)
  /-- `Xor3` (R82). -/
  | xor3 (d : Name) (a b : Src)
  /-- `Xor4` (R83). -/
  | xor4 (d : Name) (a b : Src)
  /-- `Xor8` (R84). -/
  | xor8 (d : Name) (a b : Src)
  /-- `Xor16` (R85). -/
  | xor16 (d : Name) (a b : Src)
  /-- `Fanout16` (R86). -/
  | fanout16 (d : Name) (a : Src)
  /-- `Or8Way` (R87). -/
  | or8Way (d : Name) (a : Src)
  /-- `Mux` (R91). -/
  | mux (d : Name) (a b sel : Src)
  /-- `Mux16` (R93). -/
  | mux16 (d : Name) (a b sel : Src)
  /-- `Mux4Way16` (R95). -/
  | mux4Way16 (d : Name) (a b c d sel : Src)
  /-- `Mux4Way` (R96). -/
  | mux4Way (d : Name) (a b c d sel : Src)
  /-- `Mux8Way16` (R99). -/
  | mux8Way16 (d : Name) (a b c d e f g h sel : Src)
  /-- `Mux8Way` (R100). -/
  | mux8Way (d : Name) (a b c d e f g h sel : Src)
  /-- `DMux` (R92). -/
  | dMux (d : Name) (inp sel : Src)
  /-- `DMux16` (R94). -/
  | dMux16 (d : Name) (inp sel : Src)
  /-- `DMux4Way` (R97). -/
  | dMux4Way (d : Name) (inp sel : Src)
  /-- `DMux4Way16` (R98). -/
  | dMux4Way16 (d : Name) (inp sel : Src)
  /-- `DMux8Way` (R101). -/
  | dMux8Way (d : Name) (inp sel : Src)
  /-- `DMux8Way16` (R102). -/
  | dMux8Way16 (d : Name) (inp sel : Src)
  /-- `HalfAdder` (R103). -/
  | halfAdder (d : Name) (a b : Src)
  /-- `FullAdder` (R104). -/
  | fullAdder (d : Name) (a b c : Src)
  /-- `Add16` (R105). -/
  | add16 (d : Name) (a b : Src)
  /-- `Inc16` (R106). -/
  | inc16 (d : Name) (a : Src)
  /-- `ALU` (R108). -/
  | alu (d : Name) (x y zx nx zy ny f no : Src)
  /-- `ALU_0`, the control word `0` (R113). -/
  | aluZero (d : Name) (x y : Src)
  /-- `ALU_1`, the control word `1` (R114). -/
  | aluOne (d : Name) (x y : Src)
  /-- `ALU_-1`, the control word `-1` (R115). -/
  | aluNegOne (d : Name) (x y : Src)
  /-- `ALU_x`, the control word `x` (R116). -/
  | aluX (d : Name) (x y : Src)
  /-- `ALU_y`, the control word `y` (R117). -/
  | aluY (d : Name) (x y : Src)
  /-- `ALU__x`, the control word `!x` (R118). -/
  | aluNotX (d : Name) (x y : Src)
  /-- `ALU__y`, the control word `!y` (R119). -/
  | aluNotY (d : Name) (x y : Src)
  /-- `ALU_-x`, the control word `-x` (R120). -/
  | aluNegX (d : Name) (x y : Src)
  /-- `ALU_-y`, the control word `-y` (R121). -/
  | aluNegY (d : Name) (x y : Src)
  /-- `ALU_x+1`, the control word `x+1` (R122). -/
  | aluXPlusOne (d : Name) (x y : Src)
  /-- `ALU_y+1`, the control word `y+1` (R123). -/
  | aluYPlusOne (d : Name) (x y : Src)
  /-- `ALU_x-1`, the control word `x-1` (R124). -/
  | aluXMinusOne (d : Name) (x y : Src)
  /-- `ALU_y-1`, the control word `y-1` (R125). -/
  | aluYMinusOne (d : Name) (x y : Src)
  /-- `ALU_x+y`, the control word `x+y` (R126). -/
  | aluXPlusY (d : Name) (x y : Src)
  /-- `ALU_x-y`, the control word `x-y` (R127). -/
  | aluXMinusY (d : Name) (x y : Src)
  /-- `ALU_y-x`, the control word `y-x` (R128). -/
  | aluYMinusX (d : Name) (x y : Src)
  /-- `ALU_x_y`, the control word `x&y` (R129). -/
  | aluXAndY (d : Name) (x y : Src)
  /-- `ALU_x_y_2`, the control word `x|y` (R130). -/
  | aluXOrY (d : Name) (x y : Src)
deriving DecidableEq, Repr

/-- The types of the input ports, in order (30_encoding.md R45). -/
def Comp.inPorts : Comp → List Ty
  | .p | .and | .or | .xor | .dMux | .halfAdder => [.bit, .bit]
  | .not | .fanout16 => [.bit]
  | .not2 => [.bus2]
  | .not3 => [.bus3]
  | .not4 => [.bus4]
  | .not8 | .or8Way => [.bus8]
  | .not16 | .inc16 => [.bus16]
  | .and2 | .or2 | .xor2 => [.bus2, .bus2]
  | .and3 | .or3 | .xor3 => [.bus3, .bus3]
  | .and4 | .or4 | .xor4 => [.bus4, .bus4]
  | .and8 | .or8 | .xor8 => [.bus8, .bus8]
  | .and16 | .or16 | .xor16 | .add16 | .aluZero | .aluOne | .aluNegOne | .aluX | .aluY | .aluNotX
  | .aluNotY | .aluNegX | .aluNegY | .aluXPlusOne | .aluYPlusOne | .aluXMinusOne | .aluYMinusOne
  | .aluXPlusY | .aluXMinusY | .aluYMinusX | .aluXAndY | .aluXOrY => [.bus16, .bus16]
  | .mux | .fullAdder => [.bit, .bit, .bit]
  | .mux16 => [.bus16, .bus16, .bit]
  | .mux4Way16 => [.bus16, .bus16, .bus16, .bus16, .bus2]
  | .mux4Way => [.bit, .bit, .bit, .bit, .bus2]
  | .mux8Way16 => List.replicate 8 .bus16 ++ [.bus3]
  | .mux8Way => List.replicate 8 .bit ++ [.bus3]
  | .dMux16 => [.bus16, .bit]
  | .dMux4Way => [.bit, .bus2]
  | .dMux4Way16 => [.bus16, .bus2]
  | .dMux8Way => [.bit, .bus3]
  | .dMux8Way16 => [.bus16, .bus3]
  | .alu => [.bus16, .bus16, .bit, .bit, .bit, .bit, .bit, .bit]

/-- The output ports with their types (30_encoding.md R45). -/
def Comp.outPorts : Comp → List (OutPort × Ty)
  | .p | .not | .and | .or | .xor | .or8Way | .mux | .mux4Way | .mux8Way => [(.out, .bit)]
  | .not2 | .and2 | .or2 | .xor2 => [(.out, .bus2)]
  | .not3 | .and3 | .or3 | .xor3 => [(.out, .bus3)]
  | .not4 | .and4 | .or4 | .xor4 => [(.out, .bus4)]
  | .not8 | .and8 | .or8 | .xor8 => [(.out, .bus8)]
  | .not16 | .and16 | .or16 | .xor16 | .fanout16 | .mux16 | .mux4Way16 | .mux8Way16 | .add16
  | .inc16 => [(.out, .bus16)]
  | .dMux => [(.a, .bit), (.b, .bit)]
  | .dMux16 => [(.a, .bus16), (.b, .bus16)]
  | .dMux4Way => [(.a, .bit), (.b, .bit), (.c, .bit), (.d, .bit)]
  | .dMux4Way16 => [(.a, .bus16), (.b, .bus16), (.c, .bus16), (.d, .bus16)]
  | .dMux8Way => [(.a, .bit), (.b, .bit), (.c, .bit), (.d, .bit), (.e, .bit), (.f, .bit), (.g, .bit), (.h, .bit)]
  | .dMux8Way16 => [(.a, .bus16), (.b, .bus16), (.c, .bus16), (.d, .bus16), (.e, .bus16), (.f, .bus16), (.g, .bus16), (.h, .bus16)]
  | .halfAdder | .fullAdder => [(.sum, .bit), (.carry, .bit)]
  | .alu | .aluZero | .aluOne | .aluNegOne | .aluX | .aluY | .aluNotX | .aluNotY | .aluNegX
  | .aluNegY | .aluXPlusOne | .aluYPlusOne | .aluXMinusOne | .aluYMinusOne | .aluXPlusY
  | .aluXMinusY | .aluYMinusX | .aluXAndY | .aluXOrY => [(.out, .bus16), (.zr, .bit), (.ng, .bit)]

/-- The component an instance is of. -/
def Instr.comp : Instr → Comp
  | .p _ _ _ => .p
  | .not _ _ => .not
  | .and _ _ _ => .and
  | .or _ _ _ => .or
  | .xor _ _ _ => .xor
  | .not2 _ _ => .not2
  | .not3 _ _ => .not3
  | .not4 _ _ => .not4
  | .not8 _ _ => .not8
  | .not16 _ _ => .not16
  | .and2 _ _ _ => .and2
  | .and3 _ _ _ => .and3
  | .and4 _ _ _ => .and4
  | .and8 _ _ _ => .and8
  | .and16 _ _ _ => .and16
  | .or2 _ _ _ => .or2
  | .or3 _ _ _ => .or3
  | .or4 _ _ _ => .or4
  | .or8 _ _ _ => .or8
  | .or16 _ _ _ => .or16
  | .xor2 _ _ _ => .xor2
  | .xor3 _ _ _ => .xor3
  | .xor4 _ _ _ => .xor4
  | .xor8 _ _ _ => .xor8
  | .xor16 _ _ _ => .xor16
  | .fanout16 _ _ => .fanout16
  | .or8Way _ _ => .or8Way
  | .mux _ _ _ _ => .mux
  | .mux16 _ _ _ _ => .mux16
  | .mux4Way16 _ _ _ _ _ _ => .mux4Way16
  | .mux4Way _ _ _ _ _ _ => .mux4Way
  | .mux8Way16 _ _ _ _ _ _ _ _ _ _ => .mux8Way16
  | .mux8Way _ _ _ _ _ _ _ _ _ _ => .mux8Way
  | .dMux _ _ _ => .dMux
  | .dMux16 _ _ _ => .dMux16
  | .dMux4Way _ _ _ => .dMux4Way
  | .dMux4Way16 _ _ _ => .dMux4Way16
  | .dMux8Way _ _ _ => .dMux8Way
  | .dMux8Way16 _ _ _ => .dMux8Way16
  | .halfAdder _ _ _ => .halfAdder
  | .fullAdder _ _ _ _ => .fullAdder
  | .add16 _ _ _ => .add16
  | .inc16 _ _ => .inc16
  | .alu _ _ _ _ _ _ _ _ _ => .alu
  | .aluZero _ _ _ => .aluZero
  | .aluOne _ _ _ => .aluOne
  | .aluNegOne _ _ _ => .aluNegOne
  | .aluX _ _ _ => .aluX
  | .aluY _ _ _ => .aluY
  | .aluNotX _ _ _ => .aluNotX
  | .aluNotY _ _ _ => .aluNotY
  | .aluNegX _ _ _ => .aluNegX
  | .aluNegY _ _ _ => .aluNegY
  | .aluXPlusOne _ _ _ => .aluXPlusOne
  | .aluYPlusOne _ _ _ => .aluYPlusOne
  | .aluXMinusOne _ _ _ => .aluXMinusOne
  | .aluYMinusOne _ _ _ => .aluYMinusOne
  | .aluXPlusY _ _ _ => .aluXPlusY
  | .aluXMinusY _ _ _ => .aluXMinusY
  | .aluYMinusX _ _ _ => .aluYMinusX
  | .aluXAndY _ _ _ => .aluXAndY
  | .aluXOrY _ _ _ => .aluXOrY

/-- The name of an instance. -/
def Instr.name : Instr → Name
  | .p d _ _ | .and d _ _ | .or d _ _ | .xor d _ _ => d
  | .and2 d _ _ | .and3 d _ _ | .and4 d _ _ | .and8 d _ _ => d
  | .and16 d _ _ | .or2 d _ _ | .or3 d _ _ | .or4 d _ _ => d
  | .or8 d _ _ | .or16 d _ _ | .xor2 d _ _ | .xor3 d _ _ => d
  | .xor4 d _ _ | .xor8 d _ _ | .xor16 d _ _ | .dMux d _ _ => d
  | .dMux16 d _ _ | .dMux4Way d _ _ | .dMux4Way16 d _ _ | .dMux8Way d _ _ => d
  | .dMux8Way16 d _ _ | .halfAdder d _ _ | .add16 d _ _ | .aluZero d _ _ => d
  | .aluOne d _ _ | .aluNegOne d _ _ | .aluX d _ _ | .aluY d _ _ => d
  | .aluNotX d _ _ | .aluNotY d _ _ | .aluNegX d _ _ | .aluNegY d _ _ => d
  | .aluXPlusOne d _ _ | .aluYPlusOne d _ _ | .aluXMinusOne d _ _ | .aluYMinusOne d _ _ => d
  | .aluXPlusY d _ _ | .aluXMinusY d _ _ | .aluYMinusX d _ _ | .aluXAndY d _ _ => d
  | .aluXOrY d _ _ => d
  | .not d _ | .not2 d _ | .not3 d _ | .not4 d _ => d
  | .not8 d _ | .not16 d _ | .fanout16 d _ | .or8Way d _ => d
  | .inc16 d _ => d
  | .mux d _ _ _ | .mux16 d _ _ _ | .fullAdder d _ _ _ => d
  | .mux4Way16 d _ _ _ _ _ | .mux4Way d _ _ _ _ _ => d
  | .mux8Way16 d _ _ _ _ _ _ _ _ _ | .mux8Way d _ _ _ _ _ _ _ _ _ => d
  | .alu d _ _ _ _ _ _ _ _ => d

/-- The arguments of an instance, in the order of its input ports. -/
def Instr.args : Instr → List Src
  | .p _ a b | .and _ a b | .or _ a b => [a, b]
  | .xor _ a b | .and2 _ a b | .and3 _ a b => [a, b]
  | .and4 _ a b | .and8 _ a b | .and16 _ a b => [a, b]
  | .or2 _ a b | .or3 _ a b | .or4 _ a b => [a, b]
  | .or8 _ a b | .or16 _ a b | .xor2 _ a b => [a, b]
  | .xor3 _ a b | .xor4 _ a b | .xor8 _ a b => [a, b]
  | .xor16 _ a b | .dMux _ a b | .dMux16 _ a b => [a, b]
  | .dMux4Way _ a b | .dMux4Way16 _ a b | .dMux8Way _ a b => [a, b]
  | .dMux8Way16 _ a b | .halfAdder _ a b | .add16 _ a b => [a, b]
  | .aluZero _ a b | .aluOne _ a b | .aluNegOne _ a b => [a, b]
  | .aluX _ a b | .aluY _ a b | .aluNotX _ a b => [a, b]
  | .aluNotY _ a b | .aluNegX _ a b | .aluNegY _ a b => [a, b]
  | .aluXPlusOne _ a b | .aluYPlusOne _ a b | .aluXMinusOne _ a b => [a, b]
  | .aluYMinusOne _ a b | .aluXPlusY _ a b | .aluXMinusY _ a b => [a, b]
  | .aluYMinusX _ a b | .aluXAndY _ a b | .aluXOrY _ a b => [a, b]
  | .not _ a | .not2 _ a | .not3 _ a => [a]
  | .not4 _ a | .not8 _ a | .not16 _ a => [a]
  | .fanout16 _ a | .or8Way _ a | .inc16 _ a => [a]
  | .mux _ a b c | .mux16 _ a b c | .fullAdder _ a b c => [a, b, c]
  | .mux4Way16 _ a b c e f | .mux4Way _ a b c e f => [a, b, c, e, f]
  | .mux8Way16 _ a b c e f g h k l | .mux8Way _ a b c e f g h k l => [a, b, c, e, f, g, h, k, l]
  | .alu _ a b c e f g h k => [a, b, c, e, f, g, h, k]

/-- The instance of a component with a name and a list of arguments, if the number of arguments is right. -/
def Comp.build : Comp → Name → List Src → Option Instr
  | .p, d, [a, b] => some (.p d a b)
  | .not, d, [a] => some (.not d a)
  | .and, d, [a, b] => some (.and d a b)
  | .or, d, [a, b] => some (.or d a b)
  | .xor, d, [a, b] => some (.xor d a b)
  | .not2, d, [a] => some (.not2 d a)
  | .not3, d, [a] => some (.not3 d a)
  | .not4, d, [a] => some (.not4 d a)
  | .not8, d, [a] => some (.not8 d a)
  | .not16, d, [a] => some (.not16 d a)
  | .and2, d, [a, b] => some (.and2 d a b)
  | .and3, d, [a, b] => some (.and3 d a b)
  | .and4, d, [a, b] => some (.and4 d a b)
  | .and8, d, [a, b] => some (.and8 d a b)
  | .and16, d, [a, b] => some (.and16 d a b)
  | .or2, d, [a, b] => some (.or2 d a b)
  | .or3, d, [a, b] => some (.or3 d a b)
  | .or4, d, [a, b] => some (.or4 d a b)
  | .or8, d, [a, b] => some (.or8 d a b)
  | .or16, d, [a, b] => some (.or16 d a b)
  | .xor2, d, [a, b] => some (.xor2 d a b)
  | .xor3, d, [a, b] => some (.xor3 d a b)
  | .xor4, d, [a, b] => some (.xor4 d a b)
  | .xor8, d, [a, b] => some (.xor8 d a b)
  | .xor16, d, [a, b] => some (.xor16 d a b)
  | .fanout16, d, [a] => some (.fanout16 d a)
  | .or8Way, d, [a] => some (.or8Way d a)
  | .mux, d, [a, b, c] => some (.mux d a b c)
  | .mux16, d, [a, b, c] => some (.mux16 d a b c)
  | .mux4Way16, d, [a, b, c, e, f] => some (.mux4Way16 d a b c e f)
  | .mux4Way, d, [a, b, c, e, f] => some (.mux4Way d a b c e f)
  | .mux8Way16, d, [a, b, c, e, f, g, h, k, l] => some (.mux8Way16 d a b c e f g h k l)
  | .mux8Way, d, [a, b, c, e, f, g, h, k, l] => some (.mux8Way d a b c e f g h k l)
  | .dMux, d, [a, b] => some (.dMux d a b)
  | .dMux16, d, [a, b] => some (.dMux16 d a b)
  | .dMux4Way, d, [a, b] => some (.dMux4Way d a b)
  | .dMux4Way16, d, [a, b] => some (.dMux4Way16 d a b)
  | .dMux8Way, d, [a, b] => some (.dMux8Way d a b)
  | .dMux8Way16, d, [a, b] => some (.dMux8Way16 d a b)
  | .halfAdder, d, [a, b] => some (.halfAdder d a b)
  | .fullAdder, d, [a, b, c] => some (.fullAdder d a b c)
  | .add16, d, [a, b] => some (.add16 d a b)
  | .inc16, d, [a] => some (.inc16 d a)
  | .alu, d, [a, b, c, e, f, g, h, k] => some (.alu d a b c e f g h k)
  | .aluZero, d, [a, b] => some (.aluZero d a b)
  | .aluOne, d, [a, b] => some (.aluOne d a b)
  | .aluNegOne, d, [a, b] => some (.aluNegOne d a b)
  | .aluX, d, [a, b] => some (.aluX d a b)
  | .aluY, d, [a, b] => some (.aluY d a b)
  | .aluNotX, d, [a, b] => some (.aluNotX d a b)
  | .aluNotY, d, [a, b] => some (.aluNotY d a b)
  | .aluNegX, d, [a, b] => some (.aluNegX d a b)
  | .aluNegY, d, [a, b] => some (.aluNegY d a b)
  | .aluXPlusOne, d, [a, b] => some (.aluXPlusOne d a b)
  | .aluYPlusOne, d, [a, b] => some (.aluYPlusOne d a b)
  | .aluXMinusOne, d, [a, b] => some (.aluXMinusOne d a b)
  | .aluYMinusOne, d, [a, b] => some (.aluYMinusOne d a b)
  | .aluXPlusY, d, [a, b] => some (.aluXPlusY d a b)
  | .aluXMinusY, d, [a, b] => some (.aluXMinusY d a b)
  | .aluYMinusX, d, [a, b] => some (.aluYMinusX d a b)
  | .aluXAndY, d, [a, b] => some (.aluXAndY d a b)
  | .aluXOrY, d, [a, b] => some (.aluXOrY d a b)
  | _, _, _ => none

end Sys2Proof
end

