-- ==== Sys2Proof/WellFormed.lean ====
section
/-! DEFINITION. Which instances are well-formed: every argument has, as far as its own text says, the type of the port
it is wired to (10_state.md R15, 30_encoding.md R52, 60_exceptions.md R133). What depends on the rest of the netlist
(the widths of its wires, driven inputs, cycles) is checked before evaluation (Machine/Netlist.lean). -/

namespace Sys2Proof

/-- The argument can carry the port's type: a constant of that type, a Bit for `v[i]`, a slice `v[i..j]` with `i ≤ j` of
the port's width, a bus given by as many positions as the port has. A whole wire has the type its driver gives it. -/
def Src.fits (t : Ty) : Src → Bool
  | .tie v => v.ty == t
  | .net _ => true
  | .pos _ _ => t == .bit
  | .slice _ i j => decide (i ≤ j) && Ty.ofPositions (j.val + 1 - i.val) == some t
  | .assemble bs => Ty.ofPositions bs.length == some t

/-- One argument for each input port, each of the port's type. -/
def fitsPorts : List Ty → List Src → Bool
  | [], [] => true
  | t :: ts, a :: as => a.fits t && fitsPorts ts as
  | _, _ => false

/-- A well-formed instance. -/
def Instr.wf (i : Instr) : Bool := fitsPorts i.comp.inPorts i.args

end Sys2Proof
end

