-- ==== Sys2Proof/Decode.lean ====
section
/-! DEFINITION. The encodings: the ALU control word (30_encoding.md R46, R50), and the byte image of a netlist by which
a netlist is loaded into the model. The core decodes no instruction word (R44), so the image is the model's own:
DESIGN CHOICE, log entries 5 and 6. The decoder is total on any bytes and rejects by name; the encoder follows it. -/

namespace Sys2Proof

/-! ### The control word (30_encoding.md R46) -/

/-- The packed number of a control word, first tuple position most significant. -/
def ControlWord.pack (w : ControlWord) : Nat :=
  32 * w.zx.toNat + 16 * w.nx.toNat + 8 * w.zy.toNat + 4 * w.ny.toNat + 2 * w.f.toNat + w.no.toNat

/-- The control word with a packed number: `zx` is packed bit 5, ..., `no` is packed bit 0. -/
def ControlWord.unpack (n : Nat) : ControlWord :=
  ⟨n.testBit 5, n.testBit 4, n.testBit 3, n.testBit 2, n.testBit 1, n.testBit 0⟩

/-! ### Component codes -/


/-- The component code: the first byte of an instance. The codes `0x00` to `0x3F` are the ALU's control word in the
packing of 30_encoding.md R46: the 18 canonical words stand for their rows (R50), the 46 others for `ALU` with its
control Bits tied off (R47). The codes from `0x40` on choose the other rows in the order of opcode_table.json: the
model's own numbers, DESIGN CHOICE, log entry 5 (the core decodes no instruction word, R44). -/
def Comp.code : Comp → Byte
  | .p => 0x40#8
  | .not => 0x41#8
  | .and => 0x42#8
  | .or => 0x43#8
  | .xor => 0x44#8
  | .not2 => 0x45#8
  | .not3 => 0x46#8
  | .not4 => 0x47#8
  | .not8 => 0x48#8
  | .not16 => 0x49#8
  | .and2 => 0x4A#8
  | .and3 => 0x4B#8
  | .and4 => 0x4C#8
  | .and8 => 0x4D#8
  | .and16 => 0x4E#8
  | .or2 => 0x4F#8
  | .or3 => 0x50#8
  | .or4 => 0x51#8
  | .or8 => 0x52#8
  | .or16 => 0x53#8
  | .xor2 => 0x54#8
  | .xor3 => 0x55#8
  | .xor4 => 0x56#8
  | .xor8 => 0x57#8
  | .xor16 => 0x58#8
  | .fanout16 => 0x59#8
  | .or8Way => 0x5A#8
  | .mux => 0x5B#8
  | .mux16 => 0x5C#8
  | .mux4Way16 => 0x5D#8
  | .mux4Way => 0x5E#8
  | .mux8Way16 => 0x5F#8
  | .mux8Way => 0x60#8
  | .dMux => 0x61#8
  | .dMux16 => 0x62#8
  | .dMux4Way => 0x63#8
  | .dMux4Way16 => 0x64#8
  | .dMux8Way => 0x65#8
  | .dMux8Way16 => 0x66#8
  | .halfAdder => 0x67#8
  | .fullAdder => 0x68#8
  | .add16 => 0x69#8
  | .inc16 => 0x6A#8
  | .alu => 0x6B#8
  | .aluZero => 0x2A#8
  | .aluOne => 0x3F#8
  | .aluNegOne => 0x3A#8
  | .aluX => 0x0C#8
  | .aluY => 0x30#8
  | .aluNotX => 0x0D#8
  | .aluNotY => 0x31#8
  | .aluNegX => 0x0F#8
  | .aluNegY => 0x33#8
  | .aluXPlusOne => 0x1F#8
  | .aluYPlusOne => 0x37#8
  | .aluXMinusOne => 0x0E#8
  | .aluYMinusOne => 0x32#8
  | .aluXPlusY => 0x02#8
  | .aluXMinusY => 0x13#8
  | .aluYMinusX => 0x07#8
  | .aluXAndY => 0x00#8
  | .aluXOrY => 0x15#8

/-- Every component, in the order of opcode_table.json. -/
def Comp.all : List Comp := [
  .p, .not, .and, .or, .xor, .not2, .not3, .not4, .not8, .not16, .and2, .and3, .and4, .and8, .and16, .or2,
  .or3, .or4, .or8, .or16, .xor2, .xor3, .xor4, .xor8, .xor16, .fanout16, .or8Way, .mux, .mux16, .mux4Way16,
  .mux4Way, .mux8Way16, .mux8Way, .dMux, .dMux16, .dMux4Way, .dMux4Way16, .dMux8Way, .dMux8Way16, .halfAdder,
  .fullAdder, .add16, .inc16, .alu, .aluZero, .aluOne, .aluNegOne, .aluX, .aluY, .aluNotX, .aluNotY,
  .aluNegX, .aluNegY, .aluXPlusOne, .aluYPlusOne, .aluXMinusOne, .aluYMinusOne, .aluXPlusY, .aluXMinusY,
  .aluYMinusX, .aluXAndY, .aluXOrY]

/-- The component with a given code, where there is one. -/
def Comp.ofCode? (b : Byte) : Option Comp := Comp.all.find? fun c => c.code == b

/-- `ALU` with its six control Bits tied off. -/
def Instr.aluWord (d : Name) (w : ControlWord) (x y : Src) : Instr :=
  .alu d x y (.tie (.bit w.zx)) (.tie (.bit w.nx)) (.tie (.bit w.zy)) (.tie (.bit w.ny)) (.tie (.bit w.f))
    (.tie (.bit w.no))

/-! ### The decoder -/

/-- Why bytes are no instance of the core. -/
inductive DecodeError where
  /-- The bytes end inside an instance. -/
  | truncated
  /-- The first byte is no component code. -/
  | unknownComponent (code : Byte)
  /-- An argument begins with a byte that names no argument form. -/
  | unknownArgumentForm (tag : Byte)
  /-- A wire begins with a byte that is neither the input-port mark nor an output port. -/
  | unknownPort (tag : Byte)
  /-- A constant does not fit its port. -/
  | constantTooWide (b : Byte)
  /-- A bus position is not below 16. -/
  | noSuchPosition (b : Byte)
  /-- The argument has not the type of its port (30_encoding.md R52). -/
  | widthMismatch
deriving DecidableEq, Repr

/-- The next byte. -/
def decodeByte : List Byte → Except DecodeError (Byte × List Byte)
  | [] => .error .truncated
  | b :: r => .ok (b, r)

/-- A name: its base-128 digits, least significant first, each but the last with 128 added (log entry 5). -/
def decodeName : List Byte → Except DecodeError (Nat × List Byte)
  | [] => .error .truncated
  | b :: r =>
    if b.toNat < 128 then .ok (b.toNat, r)
    else do
      let (d, r) ← decodeName r
      .ok (b.toNat - 128 + 128 * d, r)

/-- The byte of an output port. -/
def OutPort.code : OutPort → Byte
  | .out => 0 | .sum => 1 | .carry => 2 | .zr => 3 | .ng => 4
  | .a => 5 | .b => 6 | .c => 7 | .d => 8 | .e => 9 | .f => 10 | .g => 11 | .h => 12

/-- The output port of a byte. -/
def OutPort.ofCode? (b : Byte) : Option OutPort :=
  [OutPort.out, .sum, .carry, .zr, .ng, .a, .b, .c, .d, .e, .f, .g, .h].find? fun p => p.code == b

/-- The byte that marks an input port of the netlist. -/
def inputMark : Byte := 0x10

/-- A wire: the mark or the output port, then the name. -/
def decodeNet (bs : List Byte) : Except DecodeError (Net × List Byte) := do
  let (tag, r) ← decodeByte bs
  let (n, r) ← decodeName r
  if tag = inputMark then .ok (.input n, r)
  else match OutPort.ofCode? tag with
    | some p => .ok (.wire n p, r)
    | none => .error (.unknownPort tag)

/-- A bus position. -/
def decodePos (bs : List Byte) : Except DecodeError (Fin 16 × List Byte) := do
  let (b, r) ← decodeByte bs
  if b.toNat < 16 then .ok (Fin.ofNat 16 b.toNat, r) else .error (.noSuchPosition b)

/-- A Bit constant. -/
def decodeBit (bs : List Byte) : Except DecodeError (Bit × List Byte) := do
  let (b, r) ← decodeByte bs
  if b = 0 then .ok (false, r) else if b = 1 then .ok (true, r) else .error (.constantTooWide b)

/-- A constant of at most 8 positions. -/
def decodeNarrow (n : Nat) (bs : List Byte) : Except DecodeError (Bus n × List Byte) := do
  let (b, r) ← decodeByte bs
  if b.toNat < 2 ^ n then .ok (BitVec.ofNat n b.toNat, r) else .error (.constantTooWide b)

/-- A constant of the port's type; a Bus_16 is two bytes, positions 0 to 7 first (20_memory.md R31). -/
def decodeValue (t : Ty) (bs : List Byte) : Except DecodeError (Value × List Byte) :=
  match t with
  | .bit => do let (v, r) ← decodeBit bs; .ok (.bit v, r)
  | .bus2 => do let (v, r) ← decodeNarrow 2 bs; .ok (.bus2 v, r)
  | .bus3 => do let (v, r) ← decodeNarrow 3 bs; .ok (.bus3 v, r)
  | .bus4 => do let (v, r) ← decodeNarrow 4 bs; .ok (.bus4 v, r)
  | .bus8 => do let (v, r) ← decodeNarrow 8 bs; .ok (.bus8 v, r)
  | .bus16 => do
    let (hi, r) ← decodeByte bs
    let (lo, r) ← decodeByte r
    .ok (.bus16 (BitVec.ofNat 16 (256 * hi.toNat + lo.toNat)), r)

/-- One position of a bus given position by position. -/
def decodeBitSrc (bs : List Byte) : Except DecodeError (BitSrc × List Byte) := do
  let (tag, r) ← decodeByte bs
  if tag = 0 then do let (b, r) ← decodeBit r; .ok (.tie b, r)
  else if tag = 1 then do let (n, r) ← decodeNet r; .ok (.net n, r)
  else if tag = 2 then do
    let (n, r) ← decodeNet r
    let (i, r) ← decodePos r
    .ok (.pos n i, r)
  else .error (.unknownArgumentForm tag)

/-- A given number of positions. -/
def decodeBitSrcs : Nat → List Byte → Except DecodeError (List BitSrc × List Byte)
  | 0, bs => .ok ([], bs)
  | k + 1, bs => do
    let (b, r) ← decodeBitSrc bs
    let (l, r) ← decodeBitSrcs k r
    .ok (b :: l, r)

/-- The argument of a port of type `t` in one of the five forms, whatever its type. -/
def decodeForm (t : Ty) (bs : List Byte) : Except DecodeError (Src × List Byte) := do
  let (tag, r) ← decodeByte bs
  if tag = 0 then do let (v, r) ← decodeValue t r; .ok (.tie v, r)
  else if tag = 1 then do let (n, r) ← decodeNet r; .ok (.net n, r)
  else if tag = 2 then do
    let (n, r) ← decodeNet r
    let (i, r) ← decodePos r
    .ok (.pos n i, r)
  else if tag = 3 then do
    let (n, r) ← decodeNet r
    let (i, r) ← decodePos r
    let (j, r) ← decodePos r
    .ok (.slice n i j, r)
  else if tag = 4 then do
    let (k, r) ← decodeByte r
    let (l, r) ← decodeBitSrcs k.toNat r
    .ok (.assemble l, r)
  else .error (.unknownArgumentForm tag)

/-- The argument of a port of type `t`; one of another type is rejected (30_encoding.md R52). -/
def decodeSrc (t : Ty) (bs : List Byte) : Except DecodeError (Src × List Byte) := do
  let (a, r) ← decodeForm t bs
  if a.fits t then .ok (a, r) else .error .widthMismatch

/-- The arguments of the ports, in order. -/
def decodeArgs : List Ty → List Byte → Except DecodeError (List Src × List Byte)
  | [], bs => .ok ([], bs)
  | t :: ts, bs => do
    let (a, r) ← decodeSrc t bs
    let (l, r) ← decodeArgs ts r
    .ok (a :: l, r)

/-- An instance whose component code has been read. -/
def decodeBody (code : Byte) (bs : List Byte) : Except DecodeError (Instr × List Byte) := do
  let (d, r) ← decodeName bs
  match Comp.ofCode? code with
  | some c =>
    let (args, r) ← decodeArgs c.inPorts r
    match c.build d args with
    | some i => .ok (i, r)
    | none => .error .truncated
  | none =>
    if code.toNat < 64 then do
      let (x, r) ← decodeSrc .bus16 r
      let (y, r) ← decodeSrc .bus16 r
      .ok (Instr.aluWord d (ControlWord.unpack code.toNat) x y, r)
    else .error (.unknownComponent code)

/-- The first instance of a byte image, and the bytes after it. -/
def decode (bs : List Byte) : Except DecodeError (Instr × List Byte) := do
  let (code, r) ← decodeByte bs
  decodeBody code r

/-- All instances of a byte image of at most so many bytes. -/
def decodeAll : Nat → List Byte → Except DecodeError (List Instr)
  | _, [] => .ok []
  | 0, _ :: _ => .error .truncated
  | k + 1, b :: r => do
    let (i, r) ← decode (b :: r)
    let l ← decodeAll k r
    .ok (i :: l)

/-- The instances of a byte image: every instance takes at least one byte. -/
def decodeNetlist (bs : List Byte) : Except DecodeError (List Instr) := decodeAll bs.length bs

/-! ### The encoder -/

/-- The base-128 digits of a name, so many of them at most before the last. -/
def encodeDigits : Nat → Nat → List Byte
  | 0, d => [BitVec.ofNat 8 d]
  | k + 1, d => if d < 128 then [BitVec.ofNat 8 d] else BitVec.ofNat 8 (128 + d % 128) :: encodeDigits k (d / 128)

/-- The bytes of a name; it has no more digits than its value, or one. -/
def encodeName (d : Name) : List Byte := encodeDigits d d

/-- The bytes of a wire. -/
def encodeNet : Net → List Byte
  | .input k => inputMark :: encodeName k
  | .wire d p => p.code :: encodeName d

/-- The byte of a bus position. -/
def encodePos (i : Fin 16) : List Byte := [BitVec.ofNat 8 i.val]

/-- The bytes of a constant. -/
def encodeValue : Value → List Byte
  | .bit b => [if b then 1 else 0]
  | .bus2 v => [BitVec.ofNat 8 v.toNat]
  | .bus3 v => [BitVec.ofNat 8 v.toNat]
  | .bus4 v => [BitVec.ofNat 8 v.toNat]
  | .bus8 v => [BitVec.ofNat 8 v.toNat]
  | .bus16 v => [BitVec.ofNat 8 (v.toNat / 256), BitVec.ofNat 8 (v.toNat % 256)]

/-- The bytes of one position. -/
def encodeBitSrc : BitSrc → List Byte
  | .tie b => [0, if b then 1 else 0]
  | .net n => 1 :: encodeNet n
  | .pos n i => 2 :: (encodeNet n ++ encodePos i)

/-- The bytes of several positions. -/
def encodeBitSrcs : List BitSrc → List Byte
  | [] => []
  | b :: l => encodeBitSrc b ++ encodeBitSrcs l

/-- The bytes of an argument. -/
def encodeSrc : Src → List Byte
  | .tie v => 0 :: encodeValue v
  | .net n => 1 :: encodeNet n
  | .pos n i => 2 :: (encodeNet n ++ encodePos i)
  | .slice n i j => 3 :: (encodeNet n ++ encodePos i ++ encodePos j)
  | .assemble bs => 4 :: BitVec.ofNat 8 bs.length :: encodeBitSrcs bs

/-- The bytes of the arguments, in order. -/
def encodeArgs : List Src → List Byte
  | [] => []
  | a :: l => encodeSrc a ++ encodeArgs l

/-- The bytes of an instance: the component code, the name, the arguments. `ALU` always takes its own code, with its six
control Bits as arguments. -/
def encode (i : Instr) : List Byte := i.comp.code :: (encodeName i.name ++ encodeArgs i.args)

/-- The byte image of a list of instances. -/
def encodeNetlist : List Instr → List Byte
  | [] => []
  | i :: l => encode i ++ encodeNetlist l

/-! ### Words as the opcode table numbers them -/

/-- As many zero bytes as the decoder can read after a word: a name, the 255 positions of an argument begun in the word,
eight more constants. -/
def zeroTail : Nat := 600

/-- The bytes of a word of `nbits` bits, the first byte holding bits 7 to 0, followed by zeros. A word of 1 to 7 bits, so
the 6-bit control word (30_encoding.md R46) and a selector word of 1 to 3 bits (00_scope.md R7), takes one byte, its more
significant bits 0; bits of `w` above `nbits` are dropped. DESIGN CHOICE, log entry 6: the core decodes no word (R44),
so the spec says neither how wide a unit a table word is stored in nor what fills it up. -/
def tableBytes (nbits w : Nat) : List Byte :=
  (List.range ((nbits + 7) / 8)).map (fun k => BitVec.ofNat 8 ((w % 2 ^ nbits) >>> (8 * k))) ++
    List.replicate zeroTail 0

/-- The instance the decoder reads from a word of the opcode table. A row without control Bits has an empty encoding
(30_encoding.md R44), which chooses no component: DESIGN CHOICE, log entry 6. -/
def decodeTableWord (nbits w : Nat) : Option Instr :=
  if nbits = 0 then none
  else match decode (tableBytes nbits w) with
    | .ok (i, _) => some i
    | .error _ => none

end Sys2Proof
end

