-- ==== Sys2Proof/Config.lean ====
section
/-! DEFINITION. The one parameter of the core: the injected primitive `P` (00_scope.md R8, 92_eei_decisions.md D1). -/

namespace Sys2Proof

/-- The primitive the environment binds, as its truth table: `p01` is `P(0, 1)`, and so on. Every function
`Bit → Bit → Bit` has such a table (`Prim.ofFn`), so nothing is lost by holding plain data. DESIGN CHOICE, log
entry 1. -/
structure Prim where
  (p00 p01 p10 p11 : Bit)
deriving DecidableEq, Repr

/-- The table of a two-input function. -/
def Prim.ofFn (prim : Bit → Bit → Bit) : Prim :=
  ⟨prim false false, prim false true, prim true false, prim true true⟩

/-- The hardware's value of the parameter: NAND (40_gates.md R56, 70_reset_and_hazards.md R148). -/
def Prim.nand : Prim := ⟨true, true, true, false⟩

end Sys2Proof
end

