-- ==== Sys2Proof/Machine/State.lean ====
section
/-! DEFINITION. The state of the model. The core holds no architectural state (10_state.md R19, R28): no register, no
program counter, no memory, no mode. State holds what the environment supplies (the bound primitive, the driven input
ports, the netlist) and the wires of the evaluation in progress. Log entries 1, 2, 3 and 8. -/

namespace Sys2Proof.Machine

/-- The model never faults: "No other failure modes exist: every well-typed, correctly-sized input has a well-defined,
always-successful output" (60_exceptions.md R132, R135). So no constructor, and nobody raises one. -/
inductive Fault where
deriving DecidableEq, Repr

/-- Why the model gives something no meaning. All but the first are raised for what is not a netlist of the core
(60_exceptions.md R135), by the check before evaluation (Machine/Netlist.lean) or, in a state no check has let
through, by reading an argument (Machine/Operands.lean). Each is safe: nothing can be proved of what is refused. -/
inductive Refusal where
  /-- Raised by exec for an instruction that has no meaning yet; no arm raises it now. Safe. -/
  | notModelled (mnemonic : String)
  /-- An argument has another width than its port, or a slice has a width no bus has (R133, 10_state.md R15). Safe. -/
  | widthMismatch
  /-- An input port is wired to nothing that drives it (10_state.md R18). Safe. -/
  | undrivenInput
  /-- A position or slice lies outside its bus, so that nothing drives it (10_state.md R18). Safe. -/
  | noSuchPosition
  /-- Two instances have the same name, so that `name.port` names no one output (log entry 10). Safe. -/
  | duplicateName
  /-- A signal is fed back into an input that depends on it (70_reset_and_hazards.md R151), dependence being counted by
  whole instances (log entry 25). Safe. -/
  | cycle
  /-- The netlist is written for the other selector convention (42_selectors.md R90, 90_conflicts.md C1). Safe. -/
  | otherSelectorConvention
deriving DecidableEq, Repr

/-- Which selector bit a netlist takes as most significant: the core's convention, or the other one of the repository's
history, a "mutually incompatible interface contract" (42_selectors.md R90). -/
inductive SelectorConvention where
  | s0MostSignificant
  | other
deriving DecidableEq, Repr

/-- A netlist: its instances, in any order (20_memory.md R39), and the convention its selectors are written for. -/
structure Netlist where
  convention : SelectorConvention
  instances : List Instr
deriving DecidableEq, Repr

/-- The values on the output ports of one instance, in port order: they settle together (20_memory.md R35). -/
abbrev Outputs := List (OutPort × Value)

/-- The state. `inputs` and `settled` list names in strictly rising order, so that equal evaluations are equal data. -/
structure State where
  /-- The primitive the environment has bound (70_reset_and_hazards.md R148); no step changes it (10_state.md R27). -/
  prim : Prim
  /-- The values driven on the netlist's input ports (10_state.md R18); each gives its port its type (log entry 26) and
  stays until the environment drives that port anew (log entry 27). -/
  inputs : List (Name × Value)
  /-- The netlist being evaluated (30_encoding.md R54). -/
  netlist : Netlist
  /-- The output ports of the instances evaluated so far; transient (10_state.md R17). -/
  settled : List (Name × Outputs)
deriving DecidableEq, Repr

/-- The machine before any netlist is loaded. The core has no reset (70_reset_and_hazards.md R147): `P` is bound to the
hardware's NAND (R148), no input is driven, no instance exists, nothing has settled (log entry 8). -/
def State.reset : State :=
  { prim := Prim.nand
    inputs := []
    netlist := { convention := .s0MostSignificant, instances := [] }
    settled := [] }

/-- The outcome of a step of this machine. -/
abbrev Outcome := Host.Outcome State Fault Refusal

end Sys2Proof.Machine
end

