-- ==== Sys2Proof/Machine/Ops.lean ====
section
/-! DEFINITION. The named operations over wires: looking up and setting what a name carries, reading a net, settling an
instance, and what the environment does. The core takes no exception and returns from none (60_exceptions.md R132, R138,
R139), so no operation here does. -/

namespace Sys2Proof.Machine

/-! ### Values by name -/

/-- What a name carries. -/
def storeGet {α : Type} (d : Name) : List (Name × α) → Option α
  | [] => none
  | (k, v) :: r => if k = d then some v else storeGet d r

/-- Sets what a name carries, keeping the names strictly rising. -/
def storePut {α : Type} (d : Name) (v : α) : List (Name × α) → List (Name × α)
  | [] => [(d, v)]
  | (k, w) :: r =>
    if d < k then (d, v) :: (k, w) :: r
    else if k = d then (d, v) :: r
    else (k, w) :: storePut d v r

/-- The canonical form: strictly rising names. -/
abbrev storeWf {α : Type} (l : List (Name × α)) : Prop := (l.map Prod.fst).Pairwise (· < ·)

/-- The value on an output port. -/
def portGet (p : OutPort) : Outputs → Option Value
  | [] => none
  | (q, v) :: r => if q = p then some v else portGet p r

/-! ### Wires -/

/-- The value a net carries; a net nothing drives has none (10_state.md R18). -/
def State.net (s : State) : Net → Except Refusal Value
  | .input k => match storeGet k s.inputs with
    | some v => .ok v
    | none => .error .undrivenInput
  | .wire d p => match storeGet d s.settled with
    | some o => match portGet p o with
      | some v => .ok v
      | none => .error .undrivenInput
    | none => .error .undrivenInput

/-- The instance of that name has been evaluated. -/
def State.isSettled (s : State) (d : Name) : Bool := (storeGet d s.settled).isSome

/-- The output ports of an instance take their values, all together (20_memory.md R35). -/
def State.settle (s : State) (d : Name) (o : Outputs) : State := { s with settled := storePut d o s.settled }

/-- The outcome of an evaluation: the outputs settle, or the instance is refused. -/
def State.conclude (s : State) (d : Name) : Except Refusal Outputs → Outcome
  | .ok o => .next (s.settle d o)
  | .error r => .refused r

/-! ### The environment -/

/-- The environment binds the primitive (70_reset_and_hazards.md R148); it goes on driving the inputs it drove (log entry
27). -/
def State.bindPrimitive (s : State) (p : Prim) : State := { s with prim := p, settled := [] }

/-- The environment drives an input port, with a value of any type: the port has no declared one (log entry 26). What had
settled is evaluated anew: no evaluation depends on an earlier one (70_reset_and_hazards.md R147). The other input ports
stay driven with the values they had. DESIGN CHOICE, log entry 27: 10_state.md R23 has inputs driven afresh at every
evaluation and does not say how the environment holds a level. -/
def State.drive (s : State) (k : Name) (v : Value) : State := { s with inputs := storePut k v s.inputs, settled := [] }

/-- The environment builds a netlist in the core's selector convention. The input ports stay driven with the values they
had for the netlist before. DESIGN CHOICE, log entry 27. -/
def State.build (s : State) (l : List Instr) : State :=
  { s with netlist := { convention := .s0MostSignificant, instances := l }, settled := [] }

end Sys2Proof.Machine
end

