-- ==== Sys2Proof/Machine/Operands.lean ====
section
/-! DEFINITION. The argument forms of an input port (30_encoding.md R54, R49; 00_scope.md R9, R11 and section 5) and the
shared shapes of evaluation: read every input port, then compute every output port (20_memory.md R35). -/

namespace Sys2Proof.Machine

/-! ### Buses position by position -/

/-- The bus whose position `i` is `f i`, index 0 most significant (00_scope.md R9). -/
def busOfFn : (n : Nat) → (Nat → Bit) → Bus n
  | 0, _ => 0#0
  | n + 1, f => (busOfFn n f).concat (f n)

/-- The slice `v[i..i+m-1]` (00_scope.md section 5). -/
def busSlice {n : Nat} (m i : Nat) (v : Bus n) : Bus m := busOfFn m fun k => v.getMsbD (i + k)

/-- The positions of a bus, from index 0. -/
def busBits {n : Nat} (v : Bus n) : List Bit := (List.range n).map v.getMsbD

/-- The positions of a value; a Bit is no bus and has none. -/
def valueBits : Value → List Bit
  | .bit _ => []
  | .bus2 v => busBits v
  | .bus3 v => busBits v
  | .bus4 v => busBits v
  | .bus8 v => busBits v
  | .bus16 v => busBits v

/-- The bus given position by position from index 0, where a bus of that width exists (10_state.md R14). -/
def busOfBits (l : List Bit) : Option Value :=
  match Ty.ofPositions l.length with
  | some .bus2 => some (.bus2 (busOfFn 2 fun k => l.getD k false))
  | some .bus3 => some (.bus3 (busOfFn 3 fun k => l.getD k false))
  | some .bus4 => some (.bus4 (busOfFn 4 fun k => l.getD k false))
  | some .bus8 => some (.bus8 (busOfFn 8 fun k => l.getD k false))
  | some .bus16 => some (.bus16 (busOfFn 16 fun k => l.getD k false))
  | _ => none

/-- The Bit `v[i]`. -/
def valuePosition (v : Value) (i : Nat) : Except Refusal Bit :=
  match (valueBits v)[i]? with
  | some b => .ok b
  | none => .error .noSuchPosition

/-- The slice `v[i..j]`, a bus of `j - i + 1` positions. -/
def valueSlice (v : Value) (i j : Nat) : Except Refusal Value :=
  if i ≤ j ∧ j < (valueBits v).length then
    match busOfBits (((valueBits v).drop i).take (j + 1 - i)) with
    | some w => .ok w
    | none => .error .widthMismatch
  else .error .noSuchPosition

/-! ### Reading an argument -/

/-- A value that must be a Bit. -/
def asBit : Value → Except Refusal Bit
  | .bit b => .ok b
  | _ => .error .widthMismatch

/-- A value that must be a Bus_2. -/
def asBus2 : Value → Except Refusal (Bus 2)
  | .bus2 v => .ok v
  | _ => .error .widthMismatch

/-- A value that must be a Bus_3. -/
def asBus3 : Value → Except Refusal (Bus 3)
  | .bus3 v => .ok v
  | _ => .error .widthMismatch

/-- A value that must be a Bus_4. -/
def asBus4 : Value → Except Refusal (Bus 4)
  | .bus4 v => .ok v
  | _ => .error .widthMismatch

/-- A value that must be a Bus_8. -/
def asBus8 : Value → Except Refusal (Bus 8)
  | .bus8 v => .ok v
  | _ => .error .widthMismatch

/-- A value that must be a Bus_16. -/
def asBus16 : Value → Except Refusal (Bus 16)
  | .bus16 v => .ok v
  | _ => .error .widthMismatch

/-- One position of a bus given position by position. -/
def State.readBitSrc (s : State) : BitSrc → Except Refusal Bit
  | .tie b => .ok b
  | .net n => do asBit (← s.net n)
  | .pos n i => do valuePosition (← s.net n) i.val

/-- The positions of a bus given position by position. -/
def State.readBitSrcs (s : State) : List BitSrc → Except Refusal (List Bit)
  | [] => .ok []
  | b :: l => do
    let x ← s.readBitSrc b
    let y ← s.readBitSrcs l
    .ok (x :: y)

/-- The value of an argument. -/
def State.read (s : State) : Src → Except Refusal Value
  | .tie v => .ok v
  | .net n => s.net n
  | .pos n i => do .ok (.bit (← valuePosition (← s.net n) i.val))
  | .slice n i j => do valueSlice (← s.net n) i.val j.val
  | .assemble bs => do
    match busOfBits (← s.readBitSrcs bs) with
    | some v => .ok v
    | none => .error .widthMismatch

/-- An argument of a Bit port. -/
def State.readBit (s : State) (a : Src) : Except Refusal Bit := do asBit (← s.read a)
/-- An argument of a Bus_2 port. -/
def State.readBus2 (s : State) (a : Src) : Except Refusal (Bus 2) := do asBus2 (← s.read a)
/-- An argument of a Bus_3 port. -/
def State.readBus3 (s : State) (a : Src) : Except Refusal (Bus 3) := do asBus3 (← s.read a)
/-- An argument of a Bus_4 port. -/
def State.readBus4 (s : State) (a : Src) : Except Refusal (Bus 4) := do asBus4 (← s.read a)
/-- An argument of a Bus_8 port. -/
def State.readBus8 (s : State) (a : Src) : Except Refusal (Bus 8) := do asBus8 (← s.read a)
/-- An argument of a Bus_16 port. -/
def State.readBus16 (s : State) (a : Src) : Except Refusal (Bus 16) := do asBus16 (← s.read a)

/-! ### The shapes of evaluation -/

/-- How an input port reads its argument. -/
abbrev Reader (α : Type) := State → Src → Except Refusal α

/-- A component with one input port. -/
def eval1 {α : Type} (ra : Reader α) (f : Prim → α → Outputs) (d : Name) (a : Src) (s : State) : Outcome :=
  s.conclude d do
    let x ← ra s a
    .ok (f s.prim x)

/-- A component with two input ports. -/
def eval2 {α β : Type} (ra : Reader α) (rb : Reader β) (f : Prim → α → β → Outputs) (d : Name) (a b : Src)
    (s : State) : Outcome :=
  s.conclude d do
    let x ← ra s a
    let y ← rb s b
    .ok (f s.prim x y)

/-- A component with three input ports. -/
def eval3 {α β γ : Type} (ra : Reader α) (rb : Reader β) (rc : Reader γ) (f : Prim → α → β → γ → Outputs) (d : Name)
    (a b c : Src) (s : State) : Outcome :=
  s.conclude d do
    let x ← ra s a
    let y ← rb s b
    let z ← rc s c
    .ok (f s.prim x y z)

/-- A 4-way multiplexer: four data ports and a Bus_2 selector. -/
def evalMux4 {α : Type} (ra : Reader α) (f : Prim → α → α → α → α → Bus 2 → Outputs) (d : Name)
    (a b c e sel : Src) (s : State) : Outcome :=
  s.conclude d do
    let va ← ra s a
    let vb ← ra s b
    let vc ← ra s c
    let vd ← ra s e
    let vs ← s.readBus2 sel
    .ok (f s.prim va vb vc vd vs)

/-- An 8-way multiplexer: eight data ports and a Bus_3 selector. -/
def evalMux8 {α : Type} (ra : Reader α) (f : Prim → Out8 α → Bus 3 → Outputs) (d : Name)
    (a b c e g h k l sel : Src) (s : State) : Outcome :=
  s.conclude d do
    let va ← ra s a
    let vb ← ra s b
    let vc ← ra s c
    let vd ← ra s e
    let ve ← ra s g
    let vf ← ra s h
    let vg ← ra s k
    let vh ← ra s l
    let vs ← s.readBus3 sel
    .ok (f s.prim ⟨va, vb, vc, vd, ve, vf, vg, vh⟩ vs)

/-- The ALU: two buses and six control Bits. -/
def evalAlu (f : Prim → Bus 16 → Bus 16 → ControlWord → Outputs) (d : Name) (x y zx nx zy ny fc no : Src)
    (s : State) : Outcome :=
  s.conclude d do
    let vx ← s.readBus16 x
    let vy ← s.readBus16 y
    let bzx ← s.readBit zx
    let bnx ← s.readBit nx
    let bzy ← s.readBit zy
    let bny ← s.readBit ny
    let bf ← s.readBit fc
    let bno ← s.readBit no
    .ok (f s.prim vx vy ⟨bzx, bnx, bzy, bny, bf, bno⟩)

end Sys2Proof.Machine
end

