-- ==== Sys2Proof/Machine/Gates.lean ====
section
/-! DEFINITION. The primitive and the elementary gates (40_gates.md). Each gate is exactly the composition of `P` its rule
gives, for every primitive (R57); its classical value under NAND is a theorem. -/

namespace Sys2Proof.Machine

/-- `P(a, b)` for the bound primitive (R56). -/
def primApp (p : Prim) : Bit → Bit → Bit
  | false, false => p.p00
  | false, true => p.p01
  | true, false => p.p10
  | true, true => p.p11

/-- The contract of the primitive, the named hypothesis of every functional value (R56, 92_eei_decisions.md D1). -/
abbrev Contract (p : Prim) : Prop := ∀ a b : Bit, primApp p a b = !(a && b)

/-- `Not`: `P(a, a)` (R59). -/
def gateNot (p : Prim) (a : Bit) : Bit := primApp p a a

/-- `And`: `Not(P(a, b))` (R60). -/
def gateAnd (p : Prim) (a b : Bit) : Bit := gateNot p (primApp p a b)

/-- `Or`: `P(Not(a), Not(b))` (R61). -/
def gateOr (p : Prim) (a b : Bit) : Bit := primApp p (gateNot p a) (gateNot p b)

/-- `Xor`: `And(P(a, b), Or(a, b))` (R62). -/
def gateXor (p : Prim) (a b : Bit) : Bit := gateAnd p (primApp p a b) (gateOr p a b)

/-! ### Meanings -/

/-- `P` (R56): the primitive as an instance of format G2 (log entry 21). -/
def execP (d : Name) (a b : Src) (s : State) : Outcome :=
  eval2 State.readBit State.readBit (fun p x y => [(.out, .bit (primApp p x y))]) d a b s

/-- `Not` (R59). -/
def execNot (d : Name) (a : Src) (s : State) : Outcome :=
  eval1 State.readBit (fun p x => [(.out, .bit (gateNot p x))]) d a s

/-- `And` (R60). -/
def execAnd (d : Name) (a b : Src) (s : State) : Outcome :=
  eval2 State.readBit State.readBit (fun p x y => [(.out, .bit (gateAnd p x y))]) d a b s

/-- `Or` (R61). -/
def execOr (d : Name) (a b : Src) (s : State) : Outcome :=
  eval2 State.readBit State.readBit (fun p x y => [(.out, .bit (gateOr p x y))]) d a b s

/-- `Xor` (R62). -/
def execXor (d : Name) (a b : Src) (s : State) : Outcome :=
  eval2 State.readBit State.readBit (fun p x y => [(.out, .bit (gateXor p x y))]) d a b s

end Sys2Proof.Machine
end

