-- ==== Sys2Proof/Machine/Buses.lean ====
section
/-! DEFINITION. Bus lifting, fan-out and OR-reduction (41_bus.md). A lifted gate computes position `i` of its output from
position `i` of its inputs alone, by its own instance of the scalar gate (R63). -/

namespace Sys2Proof.Machine

/-- The lifting law for `NotN` (R63, R66 to R70). -/
def busNot {n : Nat} (p : Prim) (a : Bus n) : Bus n := busOfFn n fun i => gateNot p (a.getMsbD i)

/-- The lifting law for `AndN` (R63, R71 to R75). -/
def busAnd {n : Nat} (p : Prim) (a b : Bus n) : Bus n := busOfFn n fun i => gateAnd p (a.getMsbD i) (b.getMsbD i)

/-- The lifting law for `OrN` (R63, R76 to R80). -/
def busOr {n : Nat} (p : Prim) (a b : Bus n) : Bus n := busOfFn n fun i => gateOr p (a.getMsbD i) (b.getMsbD i)

/-- The lifting law for `XorN` (R63, R81 to R85). -/
def busXor {n : Nat} (p : Prim) (a b : Bus n) : Bus n := busOfFn n fun i => gateXor p (a.getMsbD i) (b.getMsbD i)

/-- `Fanout16`: one Bit on all 16 positions; wiring only, no instance of `P` (R86). -/
def fanout16 (a : Bit) : Bus 16 := busOfFn 16 fun _ => a

/-- `Or8Way`: the left fold of `Or` over all eight positions (R87). -/
def or8Way (p : Prim) (a : Bus 8) : Bit :=
  let r0 := a.getMsbD 0
  let r1 := gateOr p r0 (a.getMsbD 1)
  let r2 := gateOr p r1 (a.getMsbD 2)
  let r3 := gateOr p r2 (a.getMsbD 3)
  let r4 := gateOr p r3 (a.getMsbD 4)
  let r5 := gateOr p r4 (a.getMsbD 5)
  let r6 := gateOr p r5 (a.getMsbD 6)
  let r7 := gateOr p r6 (a.getMsbD 7)
  r7

/-! ### Meanings -/

/-- `Not2` (R66). -/
def execNot2 (d : Name) (a : Src) (s : State) : Outcome :=
  eval1 State.readBus2 (fun p x => [(.out, .bus2 (busNot p x))]) d a s

/-- `Not3` (R67). -/
def execNot3 (d : Name) (a : Src) (s : State) : Outcome :=
  eval1 State.readBus3 (fun p x => [(.out, .bus3 (busNot p x))]) d a s

/-- `Not4` (R68). -/
def execNot4 (d : Name) (a : Src) (s : State) : Outcome :=
  eval1 State.readBus4 (fun p x => [(.out, .bus4 (busNot p x))]) d a s

/-- `Not8` (R69). -/
def execNot8 (d : Name) (a : Src) (s : State) : Outcome :=
  eval1 State.readBus8 (fun p x => [(.out, .bus8 (busNot p x))]) d a s

/-- `Not16` (R70). -/
def execNot16 (d : Name) (a : Src) (s : State) : Outcome :=
  eval1 State.readBus16 (fun p x => [(.out, .bus16 (busNot p x))]) d a s

/-- `And2` (R71). -/
def execAnd2 (d : Name) (a b : Src) (s : State) : Outcome :=
  eval2 State.readBus2 State.readBus2 (fun p x y => [(.out, .bus2 (busAnd p x y))]) d a b s

/-- `And3` (R72). -/
def execAnd3 (d : Name) (a b : Src) (s : State) : Outcome :=
  eval2 State.readBus3 State.readBus3 (fun p x y => [(.out, .bus3 (busAnd p x y))]) d a b s

/-- `And4` (R73). -/
def execAnd4 (d : Name) (a b : Src) (s : State) : Outcome :=
  eval2 State.readBus4 State.readBus4 (fun p x y => [(.out, .bus4 (busAnd p x y))]) d a b s

/-- `And8` (R74). -/
def execAnd8 (d : Name) (a b : Src) (s : State) : Outcome :=
  eval2 State.readBus8 State.readBus8 (fun p x y => [(.out, .bus8 (busAnd p x y))]) d a b s

/-- `And16` (R75). -/
def execAnd16 (d : Name) (a b : Src) (s : State) : Outcome :=
  eval2 State.readBus16 State.readBus16 (fun p x y => [(.out, .bus16 (busAnd p x y))]) d a b s

/-- `Or2` (R76). -/
def execOr2 (d : Name) (a b : Src) (s : State) : Outcome :=
  eval2 State.readBus2 State.readBus2 (fun p x y => [(.out, .bus2 (busOr p x y))]) d a b s

/-- `Or3` (R77). -/
def execOr3 (d : Name) (a b : Src) (s : State) : Outcome :=
  eval2 State.readBus3 State.readBus3 (fun p x y => [(.out, .bus3 (busOr p x y))]) d a b s

/-- `Or4` (R78). -/
def execOr4 (d : Name) (a b : Src) (s : State) : Outcome :=
  eval2 State.readBus4 State.readBus4 (fun p x y => [(.out, .bus4 (busOr p x y))]) d a b s

/-- `Or8` (R79). -/
def execOr8 (d : Name) (a b : Src) (s : State) : Outcome :=
  eval2 State.readBus8 State.readBus8 (fun p x y => [(.out, .bus8 (busOr p x y))]) d a b s

/-- `Or16` (R80). -/
def execOr16 (d : Name) (a b : Src) (s : State) : Outcome :=
  eval2 State.readBus16 State.readBus16 (fun p x y => [(.out, .bus16 (busOr p x y))]) d a b s

/-- `Xor2` (R81). -/
def execXor2 (d : Name) (a b : Src) (s : State) : Outcome :=
  eval2 State.readBus2 State.readBus2 (fun p x y => [(.out, .bus2 (busXor p x y))]) d a b s

/-- `Xor3` (R82). -/
def execXor3 (d : Name) (a b : Src) (s : State) : Outcome :=
  eval2 State.readBus3 State.readBus3 (fun p x y => [(.out, .bus3 (busXor p x y))]) d a b s

/-- `Xor4` (R83). -/
def execXor4 (d : Name) (a b : Src) (s : State) : Outcome :=
  eval2 State.readBus4 State.readBus4 (fun p x y => [(.out, .bus4 (busXor p x y))]) d a b s

/-- `Xor8` (R84). -/
def execXor8 (d : Name) (a b : Src) (s : State) : Outcome :=
  eval2 State.readBus8 State.readBus8 (fun p x y => [(.out, .bus8 (busXor p x y))]) d a b s

/-- `Xor16` (R85). -/
def execXor16 (d : Name) (a b : Src) (s : State) : Outcome :=
  eval2 State.readBus16 State.readBus16 (fun p x y => [(.out, .bus16 (busXor p x y))]) d a b s

/-- `Fanout16` (R86). -/
def execFanout16 (d : Name) (a : Src) (s : State) : Outcome :=
  eval1 State.readBit (fun _ x => [(.out, .bus16 (fanout16 x))]) d a s

/-- `Or8Way` (R87). -/
def execOr8Way (d : Name) (a : Src) (s : State) : Outcome :=
  eval1 State.readBus8 (fun p x => [(.out, .bit (or8Way p x))]) d a s

end Sys2Proof.Machine
end

