-- ==== Sys2Proof/Machine/Arith.lean ====
section
/-! DEFINITION. The arithmetic unit (43_arith.md): 16-bit modular arithmetic, the carry out of index 0 going nowhere, no
overflow output (R105, R107). -/

namespace Sys2Proof.Machine

/-- `HalfAdder` (R103). -/
def halfAdder (p : Prim) (a b : Bit) : SumCarry := ⟨gateXor p a b, gateAnd p a b⟩

/-- `FullAdder` (R104): two half adders and an `Or`. -/
def fullAdder (p : Prim) (a b c : Bit) : SumCarry :=
  let h1 := halfAdder p a b
  let h2 := halfAdder p h1.sum c
  ⟨h2.sum, gateOr p h1.carry h2.carry⟩

/-- The adder of bus position `15 - k`, with the carry rippling from the least-significant position, index 15
(R105): a half adder there and full adders at 14 down to 0. -/
def addColumn (p : Prim) (a b : Bus 16) : Nat → SumCarry
  | 0 => halfAdder p (a.getMsbD 15) (b.getMsbD 15)
  | k + 1 => fullAdder p (a.getMsbD (14 - k)) (b.getMsbD (14 - k)) (addColumn p a b k).carry

/-- `Add16` (R105): position `i` is the sum of its adder. -/
def add16 (p : Prim) (a b : Bus 16) : Bus 16 := busOfFn 16 fun i => (addColumn p a b (15 - i)).sum

/-- `Inc16`: `Add16(a, ONE16)` (R106). -/
def inc16 (p : Prim) (a : Bus 16) : Bus 16 := add16 p a ONE16

/-- The output ports `sum` and `carry`. -/
def outputsSumCarry (o : SumCarry) : Outputs := [(.sum, .bit o.sum), (.carry, .bit o.carry)]

/-! ### Meanings -/

/-- `HalfAdder` (R103). -/
def execHalfAdder (d : Name) (a b : Src) (s : State) : Outcome :=
  eval2 State.readBit State.readBit (fun p x y => outputsSumCarry (halfAdder p x y)) d a b s

/-- `FullAdder` (R104). -/
def execFullAdder (d : Name) (a b c : Src) (s : State) : Outcome :=
  eval3 State.readBit State.readBit State.readBit (fun p x y z => outputsSumCarry (fullAdder p x y z)) d a b c s

/-- `Add16` (R105). -/
def execAdd16 (d : Name) (a b : Src) (s : State) : Outcome :=
  eval2 State.readBus16 State.readBus16 (fun p x y => [(.out, .bus16 (add16 p x y))]) d a b s

/-- `Inc16` (R106). -/
def execInc16 (d : Name) (a : Src) (s : State) : Outcome :=
  eval1 State.readBus16 (fun p x => [(.out, .bus16 (inc16 p x))]) d a s

end Sys2Proof.Machine
end

