-- ==== Sys2Proof/Machine/Flags.lean ====
section
/-! DEFINITION. The two flags of the core, both outputs of the ALU, read from its final `out` and never stored
(10_state.md R22, 44_alu.md R110, R111). -/

namespace Sys2Proof.Machine

/-- `zr`: the negated OR-reduction of all 16 positions, by two `Or8Way`s over the halves (R110). -/
def flagZr (p : Prim) (out : Bus 16) : Bit :=
  gateNot p (gateOr p (or8Way p (busSlice 8 0 out)) (or8Way p (busSlice 8 8 out)))

/-- `ng`: position 0 of `out` (R111). -/
def flagNg (out : Bus 16) : Bit := out.getMsbD 0

end Sys2Proof.Machine
end

