-- ==== Sys2Proof/Machine/Selectors.lean ====
section
/-! DEFINITION. The selector network (42_selectors.md): every N-way component is a binary tree of 2-way components, `s[0]`
choosing between the two smaller trees and the other selector bits driving both of them (R88). They select data only;
the core has no control transfer (10_state.md R21). -/

namespace Sys2Proof.Machine

/-- `Mux` (R91). -/
def mux (p : Prim) (a b s : Bit) : Bit := gateOr p (gateAnd p a (gateNot p s)) (gateAnd p b s)

/-- `DMux` (R92). -/
def dMux (p : Prim) (i s : Bit) : Out2 Bit := ⟨gateAnd p i (gateNot p s), gateAnd p i s⟩

/-- `Mux16` (R93): the `Mux` identity lifted, the selector fanned out to every position. -/
def mux16 (p : Prim) (a b : Bus 16) (s : Bit) : Bus 16 :=
  busOr p (busAnd p a (fanout16 (gateNot p s))) (busAnd p b (fanout16 s))

/-- `DMux16` (R94). -/
def dMux16 (p : Prim) (i : Bus 16) (s : Bit) : Out2 (Bus 16) :=
  ⟨busAnd p i (fanout16 (gateNot p s)), busAnd p i (fanout16 s)⟩

/-- `Mux4Way16` (R95). -/
def mux4Way16 (p : Prim) (a b c d : Bus 16) (s : Bus 2) : Bus 16 :=
  let lo := mux16 p a b (s.getMsbD 1)
  let hi := mux16 p c d (s.getMsbD 1)
  mux16 p lo hi (s.getMsbD 0)

/-- `Mux4Way` (R96). -/
def mux4Way (p : Prim) (a b c d : Bit) (s : Bus 2) : Bit :=
  let lo := mux p a b (s.getMsbD 1)
  let hi := mux p c d (s.getMsbD 1)
  mux p lo hi (s.getMsbD 0)

/-- `DMux4Way` (R97). -/
def dMux4Way (p : Prim) (i : Bit) (s : Bus 2) : Out4 Bit :=
  let pq := dMux p i (s.getMsbD 0)
  let ab := dMux p pq.a (s.getMsbD 1)
  let cd := dMux p pq.b (s.getMsbD 1)
  ⟨ab.a, ab.b, cd.a, cd.b⟩

/-- `DMux4Way16` (R98). -/
def dMux4Way16 (p : Prim) (i : Bus 16) (s : Bus 2) : Out4 (Bus 16) :=
  let pq := dMux16 p i (s.getMsbD 0)
  let ab := dMux16 p pq.a (s.getMsbD 1)
  let cd := dMux16 p pq.b (s.getMsbD 1)
  ⟨ab.a, ab.b, cd.a, cd.b⟩

/-- `Mux8Way16` (R99). -/
def mux8Way16 (p : Prim) (v : Out8 (Bus 16)) (s : Bus 3) : Bus 16 :=
  let lo := mux4Way16 p v.a v.b v.c v.d (busSlice 2 1 s)
  let hi := mux4Way16 p v.e v.f v.g v.h (busSlice 2 1 s)
  mux16 p lo hi (s.getMsbD 0)

/-- `Mux8Way` (R100). -/
def mux8Way (p : Prim) (v : Out8 Bit) (s : Bus 3) : Bit :=
  let lo := mux4Way p v.a v.b v.c v.d (busSlice 2 1 s)
  let hi := mux4Way p v.e v.f v.g v.h (busSlice 2 1 s)
  mux p lo hi (s.getMsbD 0)

/-- `DMux8Way` (R101). -/
def dMux8Way (p : Prim) (i : Bit) (s : Bus 3) : Out8 Bit :=
  let pq := dMux p i (s.getMsbD 0)
  let lo := dMux4Way p pq.a (busSlice 2 1 s)
  let hi := dMux4Way p pq.b (busSlice 2 1 s)
  ⟨lo.a, lo.b, lo.c, lo.d, hi.a, hi.b, hi.c, hi.d⟩

/-- `DMux8Way16` (R102). -/
def dMux8Way16 (p : Prim) (i : Bus 16) (s : Bus 3) : Out8 (Bus 16) :=
  let pq := dMux16 p i (s.getMsbD 0)
  let lo := dMux4Way16 p pq.a (busSlice 2 1 s)
  let hi := dMux4Way16 p pq.b (busSlice 2 1 s)
  ⟨lo.a, lo.b, lo.c, lo.d, hi.a, hi.b, hi.c, hi.d⟩

/-! ### The output ports of the demultiplexers, by selector value (30_encoding.md R48) -/

/-- Two output ports. -/
def outputs2 {α : Type} (mk : α → Value) (o : Out2 α) : Outputs := [(.a, mk o.a), (.b, mk o.b)]

/-- Four output ports. -/
def outputs4 {α : Type} (mk : α → Value) (o : Out4 α) : Outputs :=
  [(.a, mk o.a), (.b, mk o.b), (.c, mk o.c), (.d, mk o.d)]

/-- Eight output ports. -/
def outputs8 {α : Type} (mk : α → Value) (o : Out8 α) : Outputs :=
  [(.a, mk o.a), (.b, mk o.b), (.c, mk o.c), (.d, mk o.d), (.e, mk o.e), (.f, mk o.f), (.g, mk o.g), (.h, mk o.h)]

/-! ### Meanings -/

/-- `Mux` (R91). -/
def execMux (d : Name) (a b sel : Src) (s : State) : Outcome :=
  eval3 State.readBit State.readBit State.readBit (fun p x y z => [(.out, .bit (mux p x y z))]) d a b sel s

/-- `Mux16` (R93). -/
def execMux16 (d : Name) (a b sel : Src) (s : State) : Outcome :=
  eval3 State.readBus16 State.readBus16 State.readBit (fun p x y z => [(.out, .bus16 (mux16 p x y z))]) d a b sel s

/-- `Mux4Way16` (R95). -/
def execMux4Way16 (d : Name) (a b c e sel : Src) (s : State) : Outcome :=
  evalMux4 State.readBus16 (fun p x y z w k => [(.out, .bus16 (mux4Way16 p x y z w k))]) d a b c e sel s

/-- `Mux4Way` (R96). -/
def execMux4Way (d : Name) (a b c e sel : Src) (s : State) : Outcome :=
  evalMux4 State.readBit (fun p x y z w k => [(.out, .bit (mux4Way p x y z w k))]) d a b c e sel s

/-- `Mux8Way16` (R99). -/
def execMux8Way16 (d : Name) (a b c e g h k l sel : Src) (s : State) : Outcome :=
  evalMux8 State.readBus16 (fun p v z => [(.out, .bus16 (mux8Way16 p v z))]) d a b c e g h k l sel s

/-- `Mux8Way` (R100). -/
def execMux8Way (d : Name) (a b c e g h k l sel : Src) (s : State) : Outcome :=
  evalMux8 State.readBit (fun p v z => [(.out, .bit (mux8Way p v z))]) d a b c e g h k l sel s

/-- `DMux` (R92). -/
def execDMux (d : Name) (inp sel : Src) (s : State) : Outcome :=
  eval2 State.readBit State.readBit (fun p x z => outputs2 .bit (dMux p x z)) d inp sel s

/-- `DMux16` (R94). -/
def execDMux16 (d : Name) (inp sel : Src) (s : State) : Outcome :=
  eval2 State.readBus16 State.readBit (fun p x z => outputs2 .bus16 (dMux16 p x z)) d inp sel s

/-- `DMux4Way` (R97). -/
def execDMux4Way (d : Name) (inp sel : Src) (s : State) : Outcome :=
  eval2 State.readBit State.readBus2 (fun p x z => outputs4 .bit (dMux4Way p x z)) d inp sel s

/-- `DMux4Way16` (R98). -/
def execDMux4Way16 (d : Name) (inp sel : Src) (s : State) : Outcome :=
  eval2 State.readBus16 State.readBus2 (fun p x z => outputs4 .bus16 (dMux4Way16 p x z)) d inp sel s

/-- `DMux8Way` (R101). -/
def execDMux8Way (d : Name) (inp sel : Src) (s : State) : Outcome :=
  eval2 State.readBit State.readBus3 (fun p x z => outputs8 .bit (dMux8Way p x z)) d inp sel s

/-- `DMux8Way16` (R102). -/
def execDMux8Way16 (d : Name) (inp sel : Src) (s : State) : Outcome :=
  eval2 State.readBus16 State.readBus3 (fun p x z => outputs8 .bus16 (dMux8Way16 p x z)) d inp sel s

end Sys2Proof.Machine
end

