-- ==== Sys2Proof/Machine/Alu.lean ====
section
/-! DEFINITION. The 16-bit ALU (44_alu.md): the six-step decode with the structure of R108, and the 18 canonical control
words (R113 to R130), each of them the same ALU with its six control Bits tied off. -/

namespace Sys2Proof.Machine

/-- Steps 1 and 2: zero, then negate (R108, R109). -/
def aluOperand (p : Prim) (v : Bus 16) (z n : Bit) : Bus 16 :=
  let v1 := mux16 p v ZERO16 z
  mux16 p v1 (busNot p v1) n

/-- Steps 1 to 4: the output `out` (R108). -/
def aluResult (p : Prim) (x y : Bus 16) (w : ControlWord) : Bus 16 :=
  let x2 := aluOperand p x w.zx w.nx
  let y2 := aluOperand p y w.zy w.ny
  let o1 := mux16 p (busAnd p x2 y2) (add16 p x2 y2) w.f
  mux16 p o1 (busNot p o1) w.no

/-- `ALU` (R108): the result and the flags read from it (R110, R111). -/
def alu (p : Prim) (x y : Bus 16) (w : ControlWord) : AluOut :=
  let o2 := aluResult p x y w
  ⟨o2, flagZr p o2, flagNg o2⟩

/-- The output ports `out`, `zr` and `ng`. -/
def outputsAlu (o : AluOut) : Outputs := [(.out, .bus16 o.out), (.zr, .bit o.zr), (.ng, .bit o.ng)]

/-- The ALU with its control Bits tied off to a control word. -/
def evalAluWord (w : ControlWord) (d : Name) (x y : Src) (s : State) : Outcome :=
  eval2 State.readBus16 State.readBus16 (fun p vx vy => outputsAlu (alu p vx vy w)) d x y s

/-! ### Meanings -/

/-- `ALU` with six control Bits wired to it, whatever they are: all 64 control words are legal (30_encoding.md R47). -/
def execAlu (d : Name) (x y zx nx zy ny f no : Src) (s : State) : Outcome :=
  evalAlu (fun p vx vy w => outputsAlu (alu p vx vy w)) d x y zx nx zy ny f no s

/-- The control word `0`: `(zx, nx, zy, ny, f, no) = (1, 0, 1, 0, 1, 0)` (R113). -/
def execAluZero (d : Name) (x y : Src) (s : State) : Outcome :=
  evalAluWord ⟨true, false, true, false, true, false⟩ d x y s

/-- The control word `1`: `(zx, nx, zy, ny, f, no) = (1, 1, 1, 1, 1, 1)` (R114). -/
def execAluOne (d : Name) (x y : Src) (s : State) : Outcome :=
  evalAluWord ⟨true, true, true, true, true, true⟩ d x y s

/-- The control word `-1`: `(zx, nx, zy, ny, f, no) = (1, 1, 1, 0, 1, 0)` (R115). -/
def execAluNegOne (d : Name) (x y : Src) (s : State) : Outcome :=
  evalAluWord ⟨true, true, true, false, true, false⟩ d x y s

/-- The control word `x`: `(zx, nx, zy, ny, f, no) = (0, 0, 1, 1, 0, 0)` (R116). -/
def execAluX (d : Name) (x y : Src) (s : State) : Outcome :=
  evalAluWord ⟨false, false, true, true, false, false⟩ d x y s

/-- The control word `y`: `(zx, nx, zy, ny, f, no) = (1, 1, 0, 0, 0, 0)` (R117). -/
def execAluY (d : Name) (x y : Src) (s : State) : Outcome :=
  evalAluWord ⟨true, true, false, false, false, false⟩ d x y s

/-- The control word `!x`: `(zx, nx, zy, ny, f, no) = (0, 0, 1, 1, 0, 1)` (R118). -/
def execAluNotX (d : Name) (x y : Src) (s : State) : Outcome :=
  evalAluWord ⟨false, false, true, true, false, true⟩ d x y s

/-- The control word `!y`: `(zx, nx, zy, ny, f, no) = (1, 1, 0, 0, 0, 1)` (R119). -/
def execAluNotY (d : Name) (x y : Src) (s : State) : Outcome :=
  evalAluWord ⟨true, true, false, false, false, true⟩ d x y s

/-- The control word `-x`: `(zx, nx, zy, ny, f, no) = (0, 0, 1, 1, 1, 1)` (R120). -/
def execAluNegX (d : Name) (x y : Src) (s : State) : Outcome :=
  evalAluWord ⟨false, false, true, true, true, true⟩ d x y s

/-- The control word `-y`: `(zx, nx, zy, ny, f, no) = (1, 1, 0, 0, 1, 1)` (R121). -/
def execAluNegY (d : Name) (x y : Src) (s : State) : Outcome :=
  evalAluWord ⟨true, true, false, false, true, true⟩ d x y s

/-- The control word `x+1`: `(zx, nx, zy, ny, f, no) = (0, 1, 1, 1, 1, 1)` (R122). -/
def execAluXPlusOne (d : Name) (x y : Src) (s : State) : Outcome :=
  evalAluWord ⟨false, true, true, true, true, true⟩ d x y s

/-- The control word `y+1`: `(zx, nx, zy, ny, f, no) = (1, 1, 0, 1, 1, 1)` (R123). -/
def execAluYPlusOne (d : Name) (x y : Src) (s : State) : Outcome :=
  evalAluWord ⟨true, true, false, true, true, true⟩ d x y s

/-- The control word `x-1`: `(zx, nx, zy, ny, f, no) = (0, 0, 1, 1, 1, 0)` (R124). -/
def execAluXMinusOne (d : Name) (x y : Src) (s : State) : Outcome :=
  evalAluWord ⟨false, false, true, true, true, false⟩ d x y s

/-- The control word `y-1`: `(zx, nx, zy, ny, f, no) = (1, 1, 0, 0, 1, 0)` (R125). -/
def execAluYMinusOne (d : Name) (x y : Src) (s : State) : Outcome :=
  evalAluWord ⟨true, true, false, false, true, false⟩ d x y s

/-- The control word `x+y`: `(zx, nx, zy, ny, f, no) = (0, 0, 0, 0, 1, 0)` (R126). -/
def execAluXPlusY (d : Name) (x y : Src) (s : State) : Outcome :=
  evalAluWord ⟨false, false, false, false, true, false⟩ d x y s

/-- The control word `x-y`: `(zx, nx, zy, ny, f, no) = (0, 1, 0, 0, 1, 1)` (R127). -/
def execAluXMinusY (d : Name) (x y : Src) (s : State) : Outcome :=
  evalAluWord ⟨false, true, false, false, true, true⟩ d x y s

/-- The control word `y-x`: `(zx, nx, zy, ny, f, no) = (0, 0, 0, 1, 1, 1)` (R128). -/
def execAluYMinusX (d : Name) (x y : Src) (s : State) : Outcome :=
  evalAluWord ⟨false, false, false, true, true, true⟩ d x y s

/-- The control word `x&y`: `(zx, nx, zy, ny, f, no) = (0, 0, 0, 0, 0, 0)` (R129). -/
def execAluXAndY (d : Name) (x y : Src) (s : State) : Outcome :=
  evalAluWord ⟨false, false, false, false, false, false⟩ d x y s

/-- The control word `x|y`: `(zx, nx, zy, ny, f, no) = (0, 1, 0, 1, 0, 1)` (R130). -/
def execAluXOrY (d : Name) (x y : Src) (s : State) : Outcome :=
  evalAluWord ⟨false, true, false, true, false, true⟩ d x y s

end Sys2Proof.Machine
end

