-- ==== Sys2Proof/Machine/Dispatch.lean ====
section
/-! DEFINITION. The evaluation of one instance: one arm per row of opcode_table.json. -/

namespace Sys2Proof.Machine

def exec (i : Instr) (s : State) : Host.Outcome State Fault Refusal :=
  match i with
  | .p d a b => Sys2Proof.Machine.execP d a b s
  | .not d a => Sys2Proof.Machine.execNot d a s
  | .and d a b => Sys2Proof.Machine.execAnd d a b s
  | .or d a b => Sys2Proof.Machine.execOr d a b s
  | .xor d a b => Sys2Proof.Machine.execXor d a b s
  | .not2 d a => Sys2Proof.Machine.execNot2 d a s
  | .not3 d a => Sys2Proof.Machine.execNot3 d a s
  | .not4 d a => Sys2Proof.Machine.execNot4 d a s
  | .not8 d a => Sys2Proof.Machine.execNot8 d a s
  | .not16 d a => Sys2Proof.Machine.execNot16 d a s
  | .and2 d a b => Sys2Proof.Machine.execAnd2 d a b s
  | .and3 d a b => Sys2Proof.Machine.execAnd3 d a b s
  | .and4 d a b => Sys2Proof.Machine.execAnd4 d a b s
  | .and8 d a b => Sys2Proof.Machine.execAnd8 d a b s
  | .and16 d a b => Sys2Proof.Machine.execAnd16 d a b s
  | .or2 d a b => Sys2Proof.Machine.execOr2 d a b s
  | .or3 d a b => Sys2Proof.Machine.execOr3 d a b s
  | .or4 d a b => Sys2Proof.Machine.execOr4 d a b s
  | .or8 d a b => Sys2Proof.Machine.execOr8 d a b s
  | .or16 d a b => Sys2Proof.Machine.execOr16 d a b s
  | .xor2 d a b => Sys2Proof.Machine.execXor2 d a b s
  | .xor3 d a b => Sys2Proof.Machine.execXor3 d a b s
  | .xor4 d a b => Sys2Proof.Machine.execXor4 d a b s
  | .xor8 d a b => Sys2Proof.Machine.execXor8 d a b s
  | .xor16 d a b => Sys2Proof.Machine.execXor16 d a b s
  | .fanout16 d a => Sys2Proof.Machine.execFanout16 d a s
  | .or8Way d a => Sys2Proof.Machine.execOr8Way d a s
  | .mux d a b sel => Sys2Proof.Machine.execMux d a b sel s
  | .mux16 d a b sel => Sys2Proof.Machine.execMux16 d a b sel s
  | .mux4Way16 d a b c e sel => Sys2Proof.Machine.execMux4Way16 d a b c e sel s
  | .mux4Way d a b c e sel => Sys2Proof.Machine.execMux4Way d a b c e sel s
  | .mux8Way16 d a b c e g h k l sel => Sys2Proof.Machine.execMux8Way16 d a b c e g h k l sel s
  | .mux8Way d a b c e g h k l sel => Sys2Proof.Machine.execMux8Way d a b c e g h k l sel s
  | .dMux d inp sel => Sys2Proof.Machine.execDMux d inp sel s
  | .dMux16 d inp sel => Sys2Proof.Machine.execDMux16 d inp sel s
  | .dMux4Way d inp sel => Sys2Proof.Machine.execDMux4Way d inp sel s
  | .dMux4Way16 d inp sel => Sys2Proof.Machine.execDMux4Way16 d inp sel s
  | .dMux8Way d inp sel => Sys2Proof.Machine.execDMux8Way d inp sel s
  | .dMux8Way16 d inp sel => Sys2Proof.Machine.execDMux8Way16 d inp sel s
  | .halfAdder d a b => Sys2Proof.Machine.execHalfAdder d a b s
  | .fullAdder d a b c => Sys2Proof.Machine.execFullAdder d a b c s
  | .add16 d a b => Sys2Proof.Machine.execAdd16 d a b s
  | .inc16 d a => Sys2Proof.Machine.execInc16 d a s
  | .alu d x y zx nx zy ny fc no => Sys2Proof.Machine.execAlu d x y zx nx zy ny fc no s
  | .aluZero d x y => Sys2Proof.Machine.execAluZero d x y s
  | .aluOne d x y => Sys2Proof.Machine.execAluOne d x y s
  | .aluNegOne d x y => Sys2Proof.Machine.execAluNegOne d x y s
  | .aluX d x y => Sys2Proof.Machine.execAluX d x y s
  | .aluY d x y => Sys2Proof.Machine.execAluY d x y s
  | .aluNotX d x y => Sys2Proof.Machine.execAluNotX d x y s
  | .aluNotY d x y => Sys2Proof.Machine.execAluNotY d x y s
  | .aluNegX d x y => Sys2Proof.Machine.execAluNegX d x y s
  | .aluNegY d x y => Sys2Proof.Machine.execAluNegY d x y s
  | .aluXPlusOne d x y => Sys2Proof.Machine.execAluXPlusOne d x y s
  | .aluYPlusOne d x y => Sys2Proof.Machine.execAluYPlusOne d x y s
  | .aluXMinusOne d x y => Sys2Proof.Machine.execAluXMinusOne d x y s
  | .aluYMinusOne d x y => Sys2Proof.Machine.execAluYMinusOne d x y s
  | .aluXPlusY d x y => Sys2Proof.Machine.execAluXPlusY d x y s
  | .aluXMinusY d x y => Sys2Proof.Machine.execAluXMinusY d x y s
  | .aluYMinusX d x y => Sys2Proof.Machine.execAluYMinusX d x y s
  | .aluXAndY d x y => Sys2Proof.Machine.execAluXAndY d x y s
  | .aluXOrY d x y => Sys2Proof.Machine.execAluXOrY d x y s

end Sys2Proof.Machine
end

