-- ==== Sys2Proof/Machine/Netlist.lean ====
section
/-! DEFINITION. The check before evaluation: what is a netlist of the core, and what is refused, by name
(60_exceptions.md R135); and which instance is evaluated next (20_memory.md R39). -/

namespace Sys2Proof.Machine

/-! ### The type of an argument, known before evaluation -/

/-- The type on an output port of a component; a port the component has not carries nothing. -/
def portType (p : OutPort) : List (OutPort × Ty) → Option Ty
  | [] => none
  | (q, t) :: r => if q = p then some t else portType p r

/-- The instance of a name. -/
def findInstance (d : Name) : List Instr → Option Instr
  | [] => none
  | i :: l => if i.name = d then some i else findInstance d l

/-- The type a net carries: a driven input port's, or an output port's; else nothing drives it (10_state.md R18). An input
port of the netlist has the type of the value driven on it now. DESIGN CHOICE, log entry 26: R15 makes the width part of
a port's type, and R54 and D16 give a netlist no declaration of its own input ports. -/
def State.netType (s : State) : Net → Except Refusal Ty
  | .input k => match storeGet k s.inputs with
    | some v => .ok v.ty
    | none => .error .undrivenInput
  | .wire d p => match findInstance d s.netlist.instances with
    | some i => match portType p i.comp.outPorts with
      | some t => .ok t
      | none => .error .undrivenInput
    | none => .error .undrivenInput

/-- `v[i]` is a Bit if the bus has that position. -/
def positionType (t : Ty) (i : Nat) : Except Refusal Ty :=
  if i < t.positions then .ok .bit else .error .noSuchPosition

/-- The type of `v[i..j]`. -/
def sliceType (t : Ty) (i j : Nat) : Except Refusal Ty :=
  if i ≤ j ∧ j < t.positions then
    match Ty.ofPositions (j + 1 - i) with
    | some u => .ok u
    | none => .error .widthMismatch
  else .error .noSuchPosition

/-- One position of a bus given position by position must be a Bit. -/
def State.bitSrcType (s : State) : BitSrc → Except Refusal Ty
  | .tie _ => .ok .bit
  | .net n => s.netType n
  | .pos n i => do positionType (← s.netType n) i.val

/-- The first thing wrong with the positions of a bus given position by position. -/
def State.checkBitSrcs (s : State) : List BitSrc → Option Refusal
  | [] => none
  | b :: l => match s.bitSrcType b with
    | .error r => some r
    | .ok t => if t = .bit then s.checkBitSrcs l else some .widthMismatch

/-- The type of an argument. A bus given position by position may have one Bit at several positions, at any bus width.
DESIGN CHOICE, log entry 24: R86 and D5 have the component `Fanout16` only and refuse a fan-out to another width, and do
not say whether wiring a Bit to several positions of a port is such a fan-out. -/
def State.srcType (s : State) : Src → Except Refusal Ty
  | .tie v => .ok v.ty
  | .net n => s.netType n
  | .pos n i => do positionType (← s.netType n) i.val
  | .slice n i j => do sliceType (← s.netType n) i.val j.val
  | .assemble bs => match s.checkBitSrcs bs with
    | some r => .error r
    | none => match Ty.ofPositions bs.length with
      | some t => .ok t
      | none => .error .widthMismatch

/-- The first thing wrong with the arguments of an instance: each is driven and has its port's type
(10_state.md R15, R18). -/
def State.checkArgs (s : State) : List Ty → List Src → Option Refusal
  | t :: ts, a :: as => match s.srcType a with
    | .error r => some r
    | .ok u => if u = t then s.checkArgs ts as else some .widthMismatch
  | _, _ => none

/-- The first thing wrong with the arguments of the instances. -/
def State.checkInstances (s : State) : List Instr → Option Refusal
  | [] => none
  | i :: l => match s.checkArgs i.comp.inPorts i.args with
    | some r => some r
    | none => s.checkInstances l

/-! ### Cycles (70_reset_and_hazards.md R151) -/

/-- The nets one position is wired to. -/
def bitSrcNets : BitSrc → List Net
  | .tie _ => []
  | .net n => [n]
  | .pos n _ => [n]

/-- The nets an argument is wired to. -/
def srcNets : Src → List Net
  | .tie _ => []
  | .net n => [n]
  | .pos n _ => [n]
  | .slice n _ _ => [n]
  | .assemble bs => bs.flatMap bitSrcNets

/-- The nets an instance is wired to. -/
def instrNets (i : Instr) : List Net := i.args.flatMap srcNets

/-- The instance a net comes from. -/
def netInstances : Net → List Name
  | .input _ => []
  | .wire d _ => [d]

/-- The instances an instance directly depends on. Dependence is counted by whole instances: each output port depends on
every input port, whatever positions are wired, so a lifted gate with one of its output positions wired to another of its
input positions is feedback. DEDUCED, log entry 25: R35 evaluates a component as one, and R151 speaks of a composition
graph; R151 says "signal" and 41_bus.md R63 makes position `i` of a lifted gate depend on positions `i` alone. -/
def dependencies (i : Instr) : List Name := (instrNets i).flatMap netInstances

/-- An instance can be evaluated next: it has not been, and all it depends on has. -/
def ready (settled : Name → Bool) (i : Instr) : Bool := !settled i.name && (dependencies i).all settled

/-- Evaluating in dependency order reaches every instance: there is no feedback, between whole instances (log entry 25).
The first number bounds the evaluations left, `done` lists the instances evaluated. -/
def acyclicFrom (l : List Instr) : Nat → List Name → Bool
  | 0, done => l.all fun i => done.contains i.name
  | k + 1, done => match l.find? (ready done.contains) with
    | some i => acyclicFrom l k (i.name :: done)
    | none => l.all fun i => done.contains i.name

/-- The netlist has no feedback. -/
def acyclic (l : List Instr) : Bool := acyclicFrom l l.length []

/-! ### The check and the next instance -/

/-- The names of the instances are distinct (log entry 10). -/
def distinctNames : List Name → Bool
  | [] => true
  | d :: l => !l.contains d && distinctNames l

/-- Why the netlist, with the inputs driven, is no netlist of the core; none if it is one (R135). -/
def State.check (s : State) : Option Refusal :=
  if s.netlist.convention = .other then some .otherSelectorConvention
  else if distinctNames (s.netlist.instances.map Instr.name) = false then some .duplicateName
  else match s.checkInstances s.netlist.instances with
    | some r => some r
    | none => if acyclic s.netlist.instances then none else some .cycle

/-- The first instance in the listing that can be evaluated. -/
def State.nextInstance (s : State) : Option Instr := s.netlist.instances.find? (ready s.isSettled)

/-- Every instance has been evaluated. -/
def State.allSettled (s : State) : Bool := s.netlist.instances.all fun i => s.isSettled i.name

end Sys2Proof.Machine
end

