-- ==== Sys2Proof/Machine/Step.lean ====
section
/-! DEFINITION. One step: the check before evaluation, then the evaluation of one instance whose arguments are all driven.
The core fetches nothing (20_memory.md R33, R42); a netlist is loaded from outside (log entries 2, 7 and 9). -/

namespace Sys2Proof.Machine

/-- One step. What is no netlist of the core is refused before any evaluation (60_exceptions.md R135); when everything
has settled nothing changes (20_memory.md R35). -/
def step (s : State) : Host.Outcome State Fault Refusal :=
  match s.check with
  | some r => .refused r
  | none => match s.nextInstance with
    | some i => exec i s
    | none => .next s

/-- The environment loads the netlist of a byte image (log entry 7). -/
def State.load (s : State) (image : List Byte) : Except DecodeError State := do
  let l ← decodeNetlist image
  .ok (s.build l)

/-- The state in which the very next step evaluates the instance of a table word: the netlist is that one instance, in
the core's selector convention, and nothing has settled (log entry 7). A word that is no instance leaves the netlist
empty. -/
def State.withFetchWord (s : State) (nbits w : Nat) : State := s.build (decodeTableWord nbits w).toList

end Sys2Proof.Machine
end

