-- ==== Sys2Proof/Safety.lean ====
section
/-! DEFINITION. What counts as a sound evaluation: the terms the statements use. -/

namespace Sys2Proof.Machine

/-- The driven inputs and the settled outputs are in canonical form. -/
def State.Canonical (s : State) : Prop := storeWf s.inputs ∧ storeWf s.settled

/-- Only instances of the netlist have settled. -/
def State.OnlyInstances (s : State) : Prop :=
  ∀ d, s.isSettled d = true → ∃ i ∈ s.netlist.instances, i.name = d

/-- Every output that has settled is the function of the present inputs its rule gives: evaluating the instance again
changes nothing (10_state.md R17, R19; 20_memory.md R35). -/
def State.Consistent (s : State) : Prop :=
  ∀ i ∈ s.netlist.instances, s.isSettled i.name = true → exec i s = .next s

/-- A sound evaluation in progress. -/
structure State.Sound (s : State) : Prop where
  canonical : s.Canonical
  onlyInstances : s.OnlyInstances
  consistent : s.Consistent

/-- A finished evaluation: the settled value of every wire (70_reset_and_hazards.md R154). -/
structure State.Finished (s : State) : Prop where
  sound : s.Sound
  accepted : s.check = none
  allSettled : s.allSettled = true

end Sys2Proof.Machine
end

