-- ==== Sys2Proof/Certificates/Slice0/Obligations.lean ====
section
/-! DEFINITION. The statements for the provers. Where a statement speaks of an argument, it holds for every argument form
that reads (a constant, a wire, `v[i]`, `v[i..j]`, a bus given position by position). `Contract s.prim` is the named
hypothesis of 92_eei_decisions.md D1: the bound primitive is NAND. -/

namespace Sys2Proof.Machine

/-! ### Terms of the statements -/

/-- A lifted negation of width `n`: for every primitive each position is `Not` of the input's position (41_bus.md R63),
and under the contract every bit is inverted. -/
def LiftedNegation (n : Nat) (rd : Reader (Bus n)) (mk : Bus n → Value) (mkInstr : Name → Src → Instr) : Prop :=
  ∀ (s : State) (d : Name) (a : Src) (x : Bus n), rd s a = .ok x →
    ∃ v : Bus n, exec (mkInstr d a) s = .next (s.settle d [(.out, mk v)]) ∧
      (∀ i < n, v.getMsbD i = gateNot s.prim (x.getMsbD i)) ∧
      (Contract s.prim → v.toNat = 2 ^ n - 1 - x.toNat)

/-- A lifted two-input gate of width `n`: for every primitive each position is the scalar gate of the inputs' positions
(41_bus.md R63), and under the contract the output is the integer function `f`. -/
def LiftedGate (n : Nat) (rd : Reader (Bus n)) (mk : Bus n → Value) (gate : Prim → Bit → Bit → Bit)
    (f : Nat → Nat → Nat) (mkInstr : Name → Src → Src → Instr) : Prop :=
  ∀ (s : State) (d : Name) (a b : Src) (x y : Bus n), rd s a = .ok x → rd s b = .ok y →
    ∃ v : Bus n, exec (mkInstr d a b) s = .next (s.settle d [(.out, mk v)]) ∧
      (∀ i < n, v.getMsbD i = gate s.prim (x.getMsbD i) (y.getMsbD i)) ∧
      (Contract s.prim → v.toNat = f x.toNat y.toNat)

/-- The outputs of an ALU whose result is `v`: `zr` is 1 exactly when `v` is zero and `ng` is the sign of `v` read as a
two's-complement integer (44_alu.md R110, R111). -/
def aluOutputs (v : Bus 16) : Outputs :=
  [(.out, .bus16 v), (.zr, .bit (decide (v = ZERO16))), (.ng, .bit (decide (v.toInt < 0)))]

/-- A canonical control word `w`, packed as `n`: its row evaluates, for every primitive, as `ALU` with its control Bits
tied to `w`, and under the contract gives the value `f x y` with the flags of that value, for all `x` and `y`. -/
def CanonicalWord (w : ControlWord) (n : Nat) (mkInstr : Name → Src → Src → Instr)
    (f : Bus 16 → Bus 16 → Bus 16) : Prop :=
  w.pack = n ∧ (∀ (s : State) (d : Name) (a b : Src), exec (mkInstr d a b) s = exec (Instr.aluWord d w a b) s) ∧
  ∀ (s : State) (d : Name) (a b : Src) (x y : Bus 16), Contract s.prim → s.readBus16 a = .ok x →
    s.readBus16 b = .ok y → exec (mkInstr d a b) s = .next (s.settle d (aluOutputs (f x y)))

/-- `bus_16` of an integer function of the two's-complement readings (00_scope.md R10). -/
def onIntegers (g : Int → Int → Int) (x y : Bus 16) : Bus 16 := BitVec.ofInt 16 (g x.toInt y.toInt)

/-- The four cases of zeroing, then negating (44_alu.md R109). -/
def zeroNegate (v : Bus 16) : Bit → Bit → Bus 16
  | false, false => v
  | false, true => ~~~v
  | true, false => ZERO16
  | true, true => 0xFFFF#16

/-- The ALU with a packed control word tied to its control Bits gives the value `f x y`, with the flags of that value. -/
def PackedWord (n : Nat) (f : Bus 16 → Bus 16 → Bus 16) : Prop :=
  ∀ (s : State) (d : Name) (a b : Src) (x y : Bus 16), Contract s.prim → s.readBus16 a = .ok x →
    s.readBus16 b = .ok y →
    exec (Instr.aluWord d (ControlWord.unpack n) a b) s = .next (s.settle d (aluOutputs (f x y)))

/-- Step 1 and 2 of the decode on integers: zero, then negate (44_alu.md R108). -/
def operandValue (v : Nat) (z n : Bit) : Nat :=
  let v1 := if z then 0 else v
  if n then 65535 - v1 else v1

/-- Steps 1 to 4 of the decode on integers modulo 2^16 (44_alu.md R108). -/
def resultValue (x y : Nat) (w : ControlWord) : Nat :=
  let x2 := operandValue x w.zx w.nx
  let y2 := operandValue y w.zy w.ny
  let o := if w.f then (x2 + y2) % 65536 else x2 &&& y2
  if w.no then 65535 - o else o

/-- The 18 canonical words: packed number and row (30_encoding.md R50). -/
def canonicalWords : List (Nat × (Name → Src → Src → Instr)) :=
  [(0x2A, .aluZero), (0x3F, .aluOne), (0x3A, .aluNegOne), (0x0C, .aluX), (0x30, .aluY), (0x0D, .aluNotX),
   (0x31, .aluNotY), (0x0F, .aluNegX), (0x33, .aluNegY)] ++
  [(0x1F, .aluXPlusOne), (0x37, .aluYPlusOne), (0x0E, .aluXMinusOne), (0x32, .aluYMinusOne), (0x02, .aluXPlusY),
   (0x13, .aluXMinusY), (0x07, .aluYMinusX), (0x00, .aluXAndY), (0x15, .aluXOrY)]

/-- A net that nothing drives: an input port without a value, or an output port no instance of the netlist has
(10_state.md R18). -/
def State.Undriven (s : State) : Net → Prop
  | .input k => storeGet k s.inputs = none
  | .wire d p => ∀ i ∈ s.netlist.instances, i.name = d → p ∉ i.comp.outPorts.map Prod.fst

/-- Signals fed back: a set of instances each of which depends on another one of the set, or on itself
(70_reset_and_hazards.md R151). -/
def Feedback (l : List Instr) (loop : List Name) : Prop :=
  loop ≠ [] ∧ ∀ d ∈ loop, ∃ i ∈ l, i.name = d ∧ ∃ e ∈ loop, e ∈ dependencies i

end Sys2Proof.Machine

open Sys2Proof Sys2Proof.Machine

/-! ### The primitive and the elementary gates (40_gates.md) -/

/-- From R56: the primitive is `not (a and b)`, read from the table the environment bound; no flag, no exception. From R8
and D1, the primitive being any function: the table of a function is that function, and every table is the table of one.
That the parameter is held as its table is the model's choice, log entry 1. -/
def Obligations.PrimitiveIsNand : Prop :=
  (∀ (s : State) (d : Name) (a b : Src) (x y : Bit), s.readBit a = .ok x → s.readBit b = .ok y →
    exec (.p d a b) s = .next (s.settle d [(.out, .bit (primApp s.prim x y))]) ∧
      (Contract s.prim → primApp s.prim x y = !(x && y))) ∧
  (∀ (f : Bit → Bit → Bit) (x y : Bit), primApp (Prim.ofFn f) x y = f x y) ∧
  ∀ p : Prim, Prim.ofFn (primApp p) = p

/-- R59: `Not` is `P(a, a)` for every primitive, and `!a` under the contract. -/
def Obligations.NotIsItsDefiningIdentity : Prop :=
  ∀ (s : State) (d : Name) (a : Src) (x : Bit), s.readBit a = .ok x →
    exec (.not d a) s = .next (s.settle d [(.out, .bit (primApp s.prim x x))]) ∧
      (Contract s.prim → primApp s.prim x x = !x)

/-- R60: `And` is `P(P(a, b), P(a, b))` for every primitive, and `a & b` under the contract. -/
def Obligations.AndIsItsDefiningIdentity : Prop :=
  ∀ (s : State) (d : Name) (a b : Src) (x y : Bit), s.readBit a = .ok x → s.readBit b = .ok y →
    ∃ v, v = primApp s.prim (primApp s.prim x y) (primApp s.prim x y) ∧
      exec (.and d a b) s = .next (s.settle d [(.out, .bit v)]) ∧ (Contract s.prim → v = (x && y))

/-- R61: `Or` is `P(Not(a), Not(b))` for every primitive, and `a | b` under the contract. -/
def Obligations.OrIsItsDefiningIdentity : Prop :=
  ∀ (s : State) (d : Name) (a b : Src) (x y : Bit), s.readBit a = .ok x → s.readBit b = .ok y →
    ∃ v, v = primApp s.prim (primApp s.prim x x) (primApp s.prim y y) ∧
      exec (.or d a b) s = .next (s.settle d [(.out, .bit v)]) ∧ (Contract s.prim → v = (x || y))

/-- R62: `Xor` is `And(P(a, b), Or(a, b))` for every primitive, and `a ^ b` under the contract. -/
def Obligations.XorIsItsDefiningIdentity : Prop :=
  ∀ (s : State) (d : Name) (a b : Src) (x y : Bit), s.readBit a = .ok x → s.readBit b = .ok y →
    ∃ v, v = gateAnd s.prim (primApp s.prim x y) (gateOr s.prim x y) ∧
      exec (.xor d a b) s = .next (s.settle d [(.out, .bit v)]) ∧ (Contract s.prim → v = (x ^^ y))

/-! ### Bus lifting, fan-out and reduction (41_bus.md) -/

/-- R66 to R70 with R63: `NotN` at every width. -/
def Obligations.LiftedNotAtEveryWidth : Prop :=
  LiftedNegation 2 State.readBus2 .bus2 .not2 ∧ LiftedNegation 3 State.readBus3 .bus3 .not3 ∧
    LiftedNegation 4 State.readBus4 .bus4 .not4 ∧ LiftedNegation 8 State.readBus8 .bus8 .not8 ∧
    LiftedNegation 16 State.readBus16 .bus16 .not16

/-- R71 to R75 with R63: `AndN` at every width. -/
def Obligations.LiftedAndAtEveryWidth : Prop :=
  LiftedGate 2 State.readBus2 .bus2 gateAnd (· &&& ·) .and2 ∧ LiftedGate 3 State.readBus3 .bus3 gateAnd (· &&& ·) .and3 ∧
    LiftedGate 4 State.readBus4 .bus4 gateAnd (· &&& ·) .and4 ∧
    LiftedGate 8 State.readBus8 .bus8 gateAnd (· &&& ·) .and8 ∧
    LiftedGate 16 State.readBus16 .bus16 gateAnd (· &&& ·) .and16

/-- R76 to R80 with R63: `OrN` at every width. -/
def Obligations.LiftedOrAtEveryWidth : Prop :=
  LiftedGate 2 State.readBus2 .bus2 gateOr (· ||| ·) .or2 ∧ LiftedGate 3 State.readBus3 .bus3 gateOr (· ||| ·) .or3 ∧
    LiftedGate 4 State.readBus4 .bus4 gateOr (· ||| ·) .or4 ∧ LiftedGate 8 State.readBus8 .bus8 gateOr (· ||| ·) .or8 ∧
    LiftedGate 16 State.readBus16 .bus16 gateOr (· ||| ·) .or16

/-- R81 to R85 with R63: `XorN` at every width. -/
def Obligations.LiftedXorAtEveryWidth : Prop :=
  LiftedGate 2 State.readBus2 .bus2 gateXor (· ^^^ ·) .xor2 ∧ LiftedGate 3 State.readBus3 .bus3 gateXor (· ^^^ ·) .xor3 ∧
    LiftedGate 4 State.readBus4 .bus4 gateXor (· ^^^ ·) .xor4 ∧
    LiftedGate 8 State.readBus8 .bus8 gateXor (· ^^^ ·) .xor8 ∧
    LiftedGate 16 State.readBus16 .bus16 gateXor (· ^^^ ·) .xor16

/-- R65: the source's properties of the lifted gates, at every width, with their integer forms. -/
def Obligations.LiftedGatesSatisfyTheSourceProperties : Prop :=
  ∀ (n : Nat) (p : Prim) (a b : Bus n), Contract p →
    busNot p (busNot p a) = a ∧
    (∀ k < n, (busAnd p a b).getMsbD k = (a.getMsbD k && b.getMsbD k)) ∧
    (∀ k < n, (busOr p a b).getMsbD k = (a.getMsbD k || b.getMsbD k)) ∧
    (busNot p a).toNat = 2 ^ n - 1 - a.toNat ∧ (busAnd p a b).toNat = a.toNat &&& b.toNat ∧
    (busOr p a b).toNat = a.toNat ||| b.toNat ∧ (busXor p a b).toNat = a.toNat ^^^ b.toNat

/-- R86: `Fanout16` copies the Bit to all 16 positions, whatever the primitive. -/
def Obligations.FanoutFillsEveryPosition : Prop :=
  ∀ (s : State) (d : Name) (a : Src) (x : Bit), s.readBit a = .ok x →
    ∃ v : Bus 16, exec (.fanout16 d a) s = .next (s.settle d [(.out, .bus16 v)]) ∧ (∀ i < 16, v.getMsbD i = x) ∧
      v = (if x then 0xFFFF#16 else ZERO16)

/-- R87: `Or8Way` is the left fold of `Or` over all eight positions, and is 1 exactly when the bus is not zero. -/
def Obligations.ReductionFoldsAllEightPositions : Prop :=
  ∀ (s : State) (d : Name) (a : Src) (x : Bus 8), s.readBus8 a = .ok x →
    ∃ r : Bit, exec (.or8Way d a) s = .next (s.settle d [(.out, .bit r)]) ∧
      r = [1, 2, 3, 4, 5, 6, 7].foldl (fun acc i => gateOr s.prim acc (x.getMsbD i)) (x.getMsbD 0) ∧
      (Contract s.prim → (r = true ↔ x.toNat ≠ 0) ∧ (r = true ↔ ∃ i < 8, x.getMsbD i = true))

/-! ### Selectors (42_selectors.md) -/

/-- R91 and R92: `Mux` and `DMux`; the demultiplexer output that is not selected is driven to 0. -/
def Obligations.TwoWaySelectorsOnBits : Prop :=
  (∀ (s : State) (d : Name) (a b c : Src) (x y z : Bit), s.readBit a = .ok x → s.readBit b = .ok y →
    s.readBit c = .ok z →
    ∃ v, v = gateOr s.prim (gateAnd s.prim x (gateNot s.prim z)) (gateAnd s.prim y z) ∧
      exec (.mux d a b c) s = .next (s.settle d [(.out, .bit v)]) ∧ (Contract s.prim → v = if z then y else x)) ∧
  (∀ (s : State) (d : Name) (a c : Src) (x z : Bit), s.readBit a = .ok x → s.readBit c = .ok z →
    ∃ u v, u = gateAnd s.prim x (gateNot s.prim z) ∧ v = gateAnd s.prim x z ∧
      exec (.dMux d a c) s = .next (s.settle d [(.a, .bit u), (.b, .bit v)]) ∧
      (Contract s.prim → (u, v) = if z then (false, x) else (x, false)))

/-- R93 and R94: `Mux16` routes the whole bus, each position being a `Mux` of the positions; the `DMux16` output that is not
selected is `ZERO16`. -/
def Obligations.TwoWaySelectorsOnBuses : Prop :=
  (∀ (s : State) (d : Name) (a b c : Src) (x y : Bus 16) (z : Bit), s.readBus16 a = .ok x → s.readBus16 b = .ok y →
    s.readBit c = .ok z →
    ∃ v : Bus 16,
      v = busOr s.prim (busAnd s.prim x (fanout16 (gateNot s.prim z))) (busAnd s.prim y (fanout16 z)) ∧
      exec (.mux16 d a b c) s = .next (s.settle d [(.out, .bus16 v)]) ∧
      (∀ k < 16, v.getMsbD k = mux s.prim (x.getMsbD k) (y.getMsbD k) z) ∧
      (Contract s.prim → v = if z then y else x)) ∧
  (∀ (s : State) (d : Name) (a c : Src) (x : Bus 16) (z : Bit), s.readBus16 a = .ok x → s.readBit c = .ok z →
    ∃ u v : Bus 16, u = busAnd s.prim x (fanout16 (gateNot s.prim z)) ∧ v = busAnd s.prim x (fanout16 z) ∧
      exec (.dMux16 d a c) s = .next (s.settle d [(.a, .bus16 u), (.b, .bus16 v)]) ∧
      (Contract s.prim → (u, v) = if z then (ZERO16, x) else (x, ZERO16)))

/-- R95 and R96: the 4-way multiplexers, on buses and on Bits, are trees under `s[0]` and give input number `uint(s)`. -/
def Obligations.FourWayMultiplexersSelectByNumber : Prop :=
  (∀ (s : State) (d : Name) (a b c e k : Src) (va vb vc vd : Bus 16) (vs : Bus 2),
    s.readBus16 a = .ok va → s.readBus16 b = .ok vb → s.readBus16 c = .ok vc → s.readBus16 e = .ok vd →
    s.readBus2 k = .ok vs →
    ∃ v, v = mux16 s.prim (mux16 s.prim va vb (vs.getMsbD 1)) (mux16 s.prim vc vd (vs.getMsbD 1)) (vs.getMsbD 0) ∧
      exec (.mux4Way16 d a b c e k) s = .next (s.settle d [(.out, .bus16 v)]) ∧
      (Contract s.prim → [va, vb, vc, vd][vs.toNat]? = some v)) ∧
  (∀ (s : State) (d : Name) (a b c e k : Src) (va vb vc vd : Bit) (vs : Bus 2),
    s.readBit a = .ok va → s.readBit b = .ok vb → s.readBit c = .ok vc → s.readBit e = .ok vd →
    s.readBus2 k = .ok vs →
    ∃ v, v = mux s.prim (mux s.prim va vb (vs.getMsbD 1)) (mux s.prim vc vd (vs.getMsbD 1)) (vs.getMsbD 0) ∧
      exec (.mux4Way d a b c e k) s = .next (s.settle d [(.out, .bit v)]) ∧
      (Contract s.prim → [va, vb, vc, vd][vs.toNat]? = some v))

/-- R97 and R98: the 4-way demultiplexers are trees under `s[0]`; output `uint(s)` is the input, the others are 0. -/
def Obligations.FourWayDemultiplexersRouteByNumber : Prop :=
  (∀ (s : State) (d : Name) (a k : Src) (x : Bit) (vs : Bus 2), s.readBit a = .ok x → s.readBus2 k = .ok vs →
    ∃ pq ab cd : Out2 Bit, pq = dMux s.prim x (vs.getMsbD 0) ∧ ab = dMux s.prim pq.a (vs.getMsbD 1) ∧
      cd = dMux s.prim pq.b (vs.getMsbD 1) ∧
      exec (.dMux4Way d a k) s = .next (s.settle d
        [(.a, .bit ab.a), (.b, .bit ab.b), (.c, .bit cd.a), (.d, .bit cd.b)]) ∧
      (Contract s.prim → ∀ n < 4, [ab.a, ab.b, cd.a, cd.b][n]? = some (if n = vs.toNat then x else false))) ∧
  (∀ (s : State) (d : Name) (a k : Src) (x : Bus 16) (vs : Bus 2), s.readBus16 a = .ok x → s.readBus2 k = .ok vs →
    ∃ pq ab cd : Out2 (Bus 16), pq = dMux16 s.prim x (vs.getMsbD 0) ∧ ab = dMux16 s.prim pq.a (vs.getMsbD 1) ∧
      cd = dMux16 s.prim pq.b (vs.getMsbD 1) ∧
      exec (.dMux4Way16 d a k) s = .next (s.settle d
        [(.a, .bus16 ab.a), (.b, .bus16 ab.b), (.c, .bus16 cd.a), (.d, .bus16 cd.b)]) ∧
      (Contract s.prim → ∀ n < 4, [ab.a, ab.b, cd.a, cd.b][n]? = some (if n = vs.toNat then x else ZERO16)))

/-- R99 and R100: the 8-way multiplexers select between two 4-way outputs by `s[0]` and give input number `uint(s)`. -/
def Obligations.EightWayMultiplexersSelectByNumber : Prop :=
  (∀ (s : State) (d : Name) (a b c e g h i j k : Src) (w : Out8 (Bus 16)) (vs : Bus 3),
    s.readBus16 a = .ok w.a → s.readBus16 b = .ok w.b → s.readBus16 c = .ok w.c → s.readBus16 e = .ok w.d →
    s.readBus16 g = .ok w.e → s.readBus16 h = .ok w.f → s.readBus16 i = .ok w.g → s.readBus16 j = .ok w.h →
    s.readBus3 k = .ok vs →
    ∃ v, v = mux16 s.prim (mux4Way16 s.prim w.a w.b w.c w.d (busSlice 2 1 vs))
        (mux4Way16 s.prim w.e w.f w.g w.h (busSlice 2 1 vs)) (vs.getMsbD 0) ∧
      exec (.mux8Way16 d a b c e g h i j k) s = .next (s.settle d [(.out, .bus16 v)]) ∧
      (Contract s.prim → [w.a, w.b, w.c, w.d, w.e, w.f, w.g, w.h][vs.toNat]? = some v)) ∧
  (∀ (s : State) (d : Name) (a b c e g h i j k : Src) (w : Out8 Bit) (vs : Bus 3),
    s.readBit a = .ok w.a → s.readBit b = .ok w.b → s.readBit c = .ok w.c → s.readBit e = .ok w.d →
    s.readBit g = .ok w.e → s.readBit h = .ok w.f → s.readBit i = .ok w.g → s.readBit j = .ok w.h →
    s.readBus3 k = .ok vs →
    ∃ v, v = mux s.prim (mux4Way s.prim w.a w.b w.c w.d (busSlice 2 1 vs))
        (mux4Way s.prim w.e w.f w.g w.h (busSlice 2 1 vs)) (vs.getMsbD 0) ∧
      exec (.mux8Way d a b c e g h i j k) s = .next (s.settle d [(.out, .bit v)]) ∧
      (Contract s.prim → [w.a, w.b, w.c, w.d, w.e, w.f, w.g, w.h][vs.toNat]? = some v))

/-- R101 and R102: the 8-way demultiplexers are two 4-way ones under `s[0]`; output `uint(s)` is the input, the others
are 0. -/
def Obligations.EightWayDemultiplexersRouteByNumber : Prop :=
  (∀ (s : State) (d : Name) (a k : Src) (x : Bit) (vs : Bus 3), s.readBit a = .ok x → s.readBus3 k = .ok vs →
    ∃ (pq : Out2 Bit) (lo hi : Out4 Bit), pq = dMux s.prim x (vs.getMsbD 0) ∧
      lo = dMux4Way s.prim pq.a (busSlice 2 1 vs) ∧ hi = dMux4Way s.prim pq.b (busSlice 2 1 vs) ∧
      exec (.dMux8Way d a k) s = .next (s.settle d
        [(.a, .bit lo.a), (.b, .bit lo.b), (.c, .bit lo.c), (.d, .bit lo.d),
         (.e, .bit hi.a), (.f, .bit hi.b), (.g, .bit hi.c), (.h, .bit hi.d)]) ∧
      (Contract s.prim → ∀ n < 8, [lo.a, lo.b, lo.c, lo.d, hi.a, hi.b, hi.c, hi.d][n]? =
        some (if n = vs.toNat then x else false))) ∧
  (∀ (s : State) (d : Name) (a k : Src) (x : Bus 16) (vs : Bus 3), s.readBus16 a = .ok x → s.readBus3 k = .ok vs →
    ∃ (pq : Out2 (Bus 16)) (lo hi : Out4 (Bus 16)), pq = dMux16 s.prim x (vs.getMsbD 0) ∧
      lo = dMux4Way16 s.prim pq.a (busSlice 2 1 vs) ∧ hi = dMux4Way16 s.prim pq.b (busSlice 2 1 vs) ∧
      exec (.dMux8Way16 d a k) s = .next (s.settle d
        [(.a, .bus16 lo.a), (.b, .bus16 lo.b), (.c, .bus16 lo.c), (.d, .bus16 lo.d),
         (.e, .bus16 hi.a), (.f, .bus16 hi.b), (.g, .bus16 hi.c), (.h, .bus16 hi.d)]) ∧
      (Contract s.prim → ∀ n < 8, [lo.a, lo.b, lo.c, lo.d, hi.a, hi.b, hi.c, hi.d][n]? =
        some (if n = vs.toNat then x else ZERO16)))

/-- 20_memory.md R30: a selector given by its Bits `(s0, s1)` selects input number `2*s0 + s1`, and `(s0, s1, s2)` input
number `4*s0 + 2*s1 + s2`. -/
def Obligations.SelectorBitsAreMostSignificantFirst : Prop :=
  (∀ (s : State) (d : Name) (a b c e : Src) (s0 s1 : Bit) (va vb vc vd : Bus 16), Contract s.prim →
    s.readBus16 a = .ok va → s.readBus16 b = .ok vb → s.readBus16 c = .ok vc → s.readBus16 e = .ok vd →
    ∃ v, exec (.mux4Way16 d a b c e (.assemble [.tie s0, .tie s1])) s = .next (s.settle d [(.out, .bus16 v)]) ∧
      [va, vb, vc, vd][2 * s0.toNat + s1.toNat]? = some v) ∧
  (∀ (s : State) (d : Name) (a b c e g h i j : Src) (s0 s1 s2 : Bit) (w : Out8 (Bus 16)), Contract s.prim →
    s.readBus16 a = .ok w.a → s.readBus16 b = .ok w.b → s.readBus16 c = .ok w.c → s.readBus16 e = .ok w.d →
    s.readBus16 g = .ok w.e → s.readBus16 h = .ok w.f → s.readBus16 i = .ok w.g → s.readBus16 j = .ok w.h →
    ∃ v, exec (.mux8Way16 d a b c e g h i j (.assemble [.tie s0, .tie s1, .tie s2])) s =
        .next (s.settle d [(.out, .bus16 v)]) ∧
      [w.a, w.b, w.c, w.d, w.e, w.f, w.g, w.h][4 * s0.toNat + 2 * s1.toNat + s2.toNat]? = some v)

/-! ### Arithmetic (43_arith.md) -/

/-- R103 and R104: `HalfAdder` and `FullAdder`. -/
def Obligations.OneBitAddersAddTheirBits : Prop :=
  (∀ (s : State) (d : Name) (a b : Src) (x y : Bit), s.readBit a = .ok x → s.readBit b = .ok y →
    ∃ u v, u = gateXor s.prim x y ∧ v = gateAnd s.prim x y ∧
      exec (.halfAdder d a b) s = .next (s.settle d [(.sum, .bit u), (.carry, .bit v)]) ∧
      (Contract s.prim → 2 * v.toNat + u.toNat = x.toNat + y.toNat)) ∧
  (∀ (s : State) (d : Name) (a b c : Src) (x y z : Bit), s.readBit a = .ok x → s.readBit b = .ok y →
    s.readBit c = .ok z →
    ∃ h1 h2 : SumCarry, h1 = halfAdder s.prim x y ∧ h2 = halfAdder s.prim h1.sum z ∧
      exec (.fullAdder d a b c) s = .next (s.settle d
        [(.sum, .bit h2.sum), (.carry, .bit (gateOr s.prim h1.carry h2.carry))]) ∧
      (Contract s.prim →
        2 * (gateOr s.prim h1.carry h2.carry).toNat + h2.sum.toNat = x.toNat + y.toNat + z.toNat))

/-- R105: `Add16` ripples the carry from index 15 to index 0, where it goes nowhere; its value is the sum modulo 2^16,
read as unsigned or as two's complement. -/
def Obligations.AdderRipplesAndWraps : Prop :=
  ∀ (s : State) (d : Name) (a b : Src) (x y : Bus 16), s.readBus16 a = .ok x → s.readBus16 b = .ok y →
    ∃ (v : Bus 16) (c : Nat → Bit), exec (.add16 d a b) s = .next (s.settle d [(.out, .bus16 v)]) ∧
      halfAdder s.prim (x.getMsbD 15) (y.getMsbD 15) = ⟨v.getMsbD 15, c 15⟩ ∧
      (∀ i < 15, fullAdder s.prim (x.getMsbD i) (y.getMsbD i) (c (i + 1)) = ⟨v.getMsbD i, c i⟩) ∧
      (Contract s.prim → v.toNat = (x.toNat + y.toNat) % 65536 ∧ v = BitVec.ofInt 16 (x.toInt + y.toInt))

/-- R106: `Inc16(a)` is `Add16(a, ONE16)`, and adds 1 modulo 2^16. -/
def Obligations.IncrementerAddsOne : Prop :=
  ∀ (s : State) (d : Name) (a : Src) (x : Bus 16), s.readBus16 a = .ok x →
    exec (.inc16 d a) s = exec (.add16 d a (.tie (.bus16 ONE16))) s ∧
    ∃ v : Bus 16, exec (.inc16 d a) s = .next (s.settle d [(.out, .bus16 v)]) ∧
      (Contract s.prim → v.toNat = (x.toNat + 1) % 65536)

/-! ### The ALU (44_alu.md) -/

/-- R108: the ALU has the structure of the decode for every primitive, and the value of the decode under the
contract, for every control word. -/
def Obligations.AluFollowsTheDecode : Prop :=
  ∀ (s : State) (d : Name) (a b c1 c2 c3 c4 c5 c6 : Src) (x y : Bus 16) (w : ControlWord),
    s.readBus16 a = .ok x → s.readBus16 b = .ok y → s.readBit c1 = .ok w.zx → s.readBit c2 = .ok w.nx →
    s.readBit c3 = .ok w.zy → s.readBit c4 = .ok w.ny → s.readBit c5 = .ok w.f → s.readBit c6 = .ok w.no →
    ∃ x1 x2 y1 y2 o1 o2 : Bus 16,
      x1 = mux16 s.prim x ZERO16 w.zx ∧ x2 = mux16 s.prim x1 (busNot s.prim x1) w.nx ∧
      y1 = mux16 s.prim y ZERO16 w.zy ∧ y2 = mux16 s.prim y1 (busNot s.prim y1) w.ny ∧
      o1 = mux16 s.prim (busAnd s.prim x2 y2) (add16 s.prim x2 y2) w.f ∧
      o2 = mux16 s.prim o1 (busNot s.prim o1) w.no ∧
      exec (.alu d a b c1 c2 c3 c4 c5 c6) s = .next (s.settle d
        [(.out, .bus16 o2),
         (.zr, .bit (gateNot s.prim (gateOr s.prim (or8Way s.prim (busSlice 8 0 o2)) (or8Way s.prim (busSlice 8 8 o2))))),
         (.ng, .bit (o2.getMsbD 0))]) ∧
      (Contract s.prim → o2.toNat = resultValue x.toNat y.toNat w ∧
        exec (.alu d a b c1 c2 c3 c4 c5 c6) s = .next (s.settle d (aluOutputs o2)))

/-- R109: zeroing is applied first and negation second, for `x` and for `y`; the steps do not interact, step 3 reads `x2`
and `y2` only and step 4 the result of step 3 only. -/
def Obligations.ZeroingComesBeforeNegation : Prop :=
  ∀ (s : State) (d : Name) (a b c1 c2 c3 c4 c5 c6 : Src) (x y : Bus 16) (w : ControlWord), Contract s.prim →
    s.readBus16 a = .ok x → s.readBus16 b = .ok y → s.readBit c1 = .ok w.zx → s.readBit c2 = .ok w.nx →
    s.readBit c3 = .ok w.zy → s.readBit c4 = .ok w.ny → s.readBit c5 = .ok w.f → s.readBit c6 = .ok w.no →
    ∃ x2 y2 o1 : Bus 16, x2 = zeroNegate x w.zx w.nx ∧ y2 = zeroNegate y w.zy w.ny ∧
      o1 = (if w.f then x2 + y2 else x2 &&& y2) ∧
      exec (.alu d a b c1 c2 c3 c4 c5 c6) s = .next (s.settle d (aluOutputs (if w.no then ~~~o1 else o1)))

/-- R110 and R111: whatever the control word and the row, `zr` is 1 exactly when every position of the final `out` is 0,
built from two `Or8Way`s over its halves; `ng` is its position 0 and its two's-complement sign, and the two are never both
1. -/
def Obligations.FlagsAreReadFromTheFinalOutput : Prop :=
  ∀ (i : Instr) (s t : State), Contract s.prim → i.comp.outPorts = [(.out, .bus16), (.zr, .bit), (.ng, .bit)] →
    exec i s = .next t →
    ∃ (v : Bus 16) (zr ng : Bit), storeGet i.name t.settled = some [(.out, .bus16 v), (.zr, .bit zr), (.ng, .bit ng)] ∧
      zr = gateNot s.prim (gateOr s.prim (or8Way s.prim (busSlice 8 0 v)) (or8Way s.prim (busSlice 8 8 v))) ∧
      (zr = true ↔ ∀ k < 16, v.getMsbD k = false) ∧ ng = v.getMsbD 0 ∧ (ng = true ↔ v.toInt < 0) ∧
      ¬(zr = true ∧ ng = true)

/-- R113 to R115: the constants. -/
def Obligations.ConstantWordsGiveConstants : Prop :=
  CanonicalWord ⟨true, false, true, false, true, false⟩ 0x2A .aluZero (onIntegers fun _ _ => 0) ∧
  CanonicalWord ⟨true, true, true, true, true, true⟩ 0x3F .aluOne (onIntegers fun _ _ => 1) ∧
  CanonicalWord ⟨true, true, true, false, true, false⟩ 0x3A .aluNegOne (onIntegers fun _ _ => -1)

/-- R116 to R121: an operand, its bitwise NOT, which is `-x - 1`, and its negation. -/
def Obligations.PassNotAndNegateWords : Prop :=
  CanonicalWord ⟨false, false, true, true, false, false⟩ 0x0C .aluX (fun x _ => x) ∧
  CanonicalWord ⟨true, true, false, false, false, false⟩ 0x30 .aluY (fun _ y => y) ∧
  CanonicalWord ⟨false, false, true, true, false, true⟩ 0x0D .aluNotX (fun x _ => ~~~x) ∧
  CanonicalWord ⟨true, true, false, false, false, true⟩ 0x31 .aluNotY (fun _ y => ~~~y) ∧
  CanonicalWord ⟨false, false, true, true, true, true⟩ 0x0F .aluNegX (onIntegers fun x _ => -x) ∧
  CanonicalWord ⟨true, true, false, false, true, true⟩ 0x33 .aluNegY (onIntegers fun _ y => -y) ∧
  ∀ x : Bus 16, ~~~x = onIntegers (fun x _ => -x - 1) x x

/-- R122 to R125: plus and minus one. -/
def Obligations.IncrementAndDecrementWords : Prop :=
  CanonicalWord ⟨false, true, true, true, true, true⟩ 0x1F .aluXPlusOne (onIntegers fun x _ => x + 1) ∧
  CanonicalWord ⟨true, true, false, true, true, true⟩ 0x37 .aluYPlusOne (onIntegers fun _ y => y + 1) ∧
  CanonicalWord ⟨false, false, true, true, true, false⟩ 0x0E .aluXMinusOne (onIntegers fun x _ => x - 1) ∧
  CanonicalWord ⟨true, true, false, false, true, false⟩ 0x32 .aluYMinusOne (onIntegers fun _ y => y - 1)

/-- R126 to R130: sum and differences, wrapping without a signal, and bitwise AND and OR. -/
def Obligations.TwoOperandWords : Prop :=
  CanonicalWord ⟨false, false, false, false, true, false⟩ 0x02 .aluXPlusY (onIntegers fun x y => x + y) ∧
  CanonicalWord ⟨false, true, false, false, true, true⟩ 0x13 .aluXMinusY (onIntegers fun x y => x - y) ∧
  CanonicalWord ⟨false, false, false, true, true, true⟩ 0x07 .aluYMinusX (onIntegers fun x y => y - x) ∧
  CanonicalWord ⟨false, false, false, false, false, false⟩ 0x00 .aluXAndY (fun x y => x &&& y) ∧
  CanonicalWord ⟨false, true, false, true, false, true⟩ 0x15 .aluXOrY (fun x y => x ||| y)

/-- R131: the classes of the control words without a name. -/
def Obligations.UnnamedWordsComputeTheDecode : Prop :=
  (∀ n ∈ [0x0A, 0x1B, 0x1D], PackedWord n fun x _ => x) ∧ PackedWord 0x0B (fun x _ => ~~~x) ∧
  (∀ n ∈ [0x22, 0x27], PackedWord n fun _ y => y) ∧
  (∀ n ∈ [0x08, 0x18, 0x20, 0x24, 0x28, 0x2C, 0x2F, 0x38, 0x3B, 0x3D], PackedWord n fun _ _ => ZERO16) ∧
  (∀ n ∈ [0x09, 0x19, 0x21, 0x25, 0x29, 0x2B, 0x2D, 0x2E, 0x39, 0x3C], PackedWord n fun _ _ => 0xFFFF#16) ∧
  PackedWord 0x3E (fun _ _ => 0xFFFE#16) ∧
  PackedWord 0x01 (fun x y => ~~~(x &&& y)) ∧ PackedWord 0x14 (fun x y => ~~~x &&& ~~~y) ∧
  PackedWord 0x03 (fun x y => -x - y - 1) ∧ PackedWord 0x04 (fun x y => x &&& ~~~y) ∧
  PackedWord 0x06 (fun x y => x - y - 1) ∧
  (∀ n < 64, PackedWord n fun x y => BitVec.ofNat 16 (resultValue x.toNat y.toNat (ControlWord.unpack n)))

/-! ### Encodings (30_encoding.md) -/

/-- R46: the packing of the control word, and that it loses nothing. -/
def Obligations.ControlWordPacking : Prop :=
  (∀ w : ControlWord, ControlWord.unpack w.pack = w ∧ w.pack < 64 ∧
    w.pack = 32 * w.zx.toNat + 16 * w.nx.toNat + 8 * w.zy.toNat + 4 * w.ny.toNat + 2 * w.f.toNat + w.no.toNat) ∧
  ∀ n < 64, (ControlWord.unpack n).pack = n

/-- R47 and R50: a control word of the opcode table decodes to its canonical row, and each of the 46 others to `ALU`
with that word tied to its control Bits, whether it is given as its own 6 bits (R46), as 7 or as a whole byte; a word of
fewer bits, a selector's, decodes as the control word of that number. The zero bytes after it, and how a word of fewer
than 8 bits is filled up, are the model's choice, log entry 6. -/
def Obligations.ControlWordsDecode : Prop :=
  (∀ nbits, 6 ≤ nbits → nbits ≤ 8 →
    (∀ c ∈ canonicalWords, decodeTableWord nbits c.1 = some (c.2 0 (.tie (.bus16 ZERO16)) (.tie (.bus16 ZERO16)))) ∧
    ∀ n < 64, n ∉ canonicalWords.map Prod.fst →
      decodeTableWord nbits n =
        some (Instr.aluWord 0 (ControlWord.unpack n) (.tie (.bus16 ZERO16)) (.tie (.bus16 ZERO16)))) ∧
  ∀ nbits, 1 ≤ nbits → nbits < 6 → ∀ n < 2 ^ nbits, decodeTableWord nbits n = decodeTableWord 6 n

/-- Decoding an encoded well-formed instance gives it back, whatever bytes follow. The image is the model's own, log
entry 5. -/
def Obligations.DecodeInvertsEncode : Prop :=
  ∀ (i : Instr) (rest : List Byte), i.wf = true → decode (encode i ++ rest) = .ok (i, rest)

/-- The byte image of a netlist gives back its instances. The image is the model's own, log entry 5. -/
def Obligations.NetlistImageRoundTrip : Prop :=
  ∀ l : List Instr, (∀ i ∈ l, i.wf = true) → decodeNetlist (encodeNetlist l) = .ok l

/-- What the decoder answers is well-formed: R52, a bus of the wrong width is not an encoding. It has taken at least a
code byte and a name byte. The bytes and their decoder are the model's own, log entry 5: the core decodes no instruction
word (R44). -/
def Obligations.DecodedInstancesAreWellFormed : Prop :=
  ∀ (bs rest : List Byte) (i : Instr), decode bs = .ok (i, rest) → i.wf = true ∧ rest.length + 2 ≤ bs.length

/-! ### Arguments (00_scope.md section 5, 30_encoding.md R49, R54) -/

/-- A slice `v[i..j]` carries positions `i` to `j` of the bus, in order, and has their number as its width; `v[i]` is
position `i`. -/
def Obligations.SlicesCarryTheirPositions : Prop :=
  ∀ (s : State) (n : Net) (v : Value), s.net n = .ok v →
    (∀ (i j : Fin 16) (t : Ty), i ≤ j → j.val < v.ty.positions → Ty.ofPositions (j.val + 1 - i.val) = some t →
      ∃ u, s.read (.slice n i j) = .ok u ∧ u.ty = t ∧
        ∀ k, k < j.val + 1 - i.val → (valueBits u)[k]? = (valueBits v)[i.val + k]?) ∧
    (∀ i : Fin 16, i.val < v.ty.positions →
      ∃ b, s.readBit (.pos n i) = .ok b ∧ (valueBits v)[i.val]? = some b)

/-- 20_memory.md R31: the halves of a Bus_16. -/
def Obligations.HalvesOfABus : Prop :=
  ∀ (s : State) (n : Net) (v : Bus 16), s.net n = .ok (.bus16 v) →
    ∃ hi lo : Bus 8, s.readBus8 (.slice n 0 7) = .ok hi ∧ s.readBus8 (.slice n 8 15) = .ok lo ∧
      v.toNat = 256 * hi.toNat + lo.toNat ∧ hi = v.extractLsb' 8 8 ∧ lo = v.extractLsb' 0 8

/-- A bus given position by position, from index 0, has those positions. -/
def Obligations.AssembledBusHasItsPositions : Prop :=
  ∀ (s : State) (bs : List BitSrc) (l : List Bit) (t : Ty), Ty.ofPositions bs.length = some t →
    bs.map s.readBitSrc = l.map Except.ok →
    ∃ u, s.read (.assemble bs) = .ok u ∧ u.ty = t ∧ valueBits u = l

/-! ### What any evaluation does -/

/-- The frame: an evaluation drives the output ports of its own instance and changes nothing else, neither the primitive,
nor the inputs, nor the netlist, nor any other net. -/
def Obligations.EvaluationSettlesOnlyItsOwnInstance : Prop :=
  ∀ (i : Instr) (s t : State), exec i s = .next t →
    t.prim = s.prim ∧ t.inputs = s.inputs ∧ t.netlist = s.netlist ∧
      t.isSettled i.name = true ∧ (∀ d, d ≠ i.name → storeGet d t.settled = storeGet d s.settled) ∧
      ∀ n : Net, (∀ p, n ≠ .wire i.name p) → t.net n = s.net n

/-- R132: every instance whose arguments carry their ports' types has an always-successful output, with one value of the
right type on each of its output ports; and nothing ever faults. -/
def Obligations.EveryWellTypedEvaluationSucceeds : Prop :=
  (∀ (i : Instr) (s : State),
    (∀ (k : Nat) (t : Ty) (a : Src), i.comp.inPorts[k]? = some t → i.args[k]? = some a →
      ∃ v, s.read a = .ok v ∧ v.ty = t) →
    ∃ o : Outputs, exec i s = .next (s.settle i.name o) ∧ o.map (fun q => (q.1, q.2.ty)) = i.comp.outPorts) ∧
  ∀ (s : State) (f : Fault), step s ≠ .fault f

/-- R17 and R19: the outputs are a function of the primitive and the present inputs alone. -/
def Obligations.OutputsDependOnPresentInputsOnly : Prop :=
  ∀ (i : Instr) (s t s' : State), s.prim = t.prim → (∀ a ∈ i.args, s.read a = t.read a) → exec i s = .next s' →
    ∃ o, s' = s.settle i.name o ∧ exec i t = .next (t.settle i.name o)

/-- R35: evaluating a component again with the same inputs changes nothing. -/
def Obligations.EvaluationIsIdempotent : Prop :=
  ∀ (i : Instr) (s t : State), i.name ∉ dependencies i → exec i s = .next t → exec i t = .next t

/-! ### What is no netlist of the core (60_exceptions.md R135) -/

/-- A netlist written for the other selector convention is refused before evaluation. That a netlist carries a tag for
its convention is the model's inference, log entry 12; that this refusal is the one named, whatever else is wrong, is its
choice, log entry 11. -/
def Obligations.OtherConventionIsRefused : Prop :=
  ∀ s : State, s.netlist.convention = .other → step s = .refused .otherSelectorConvention

/-- R18: a netlist that leaves an input port undriven is refused before evaluation, whatever the argument form. -/
def Obligations.UndrivenInputIsRefused : Prop :=
  ∀ (s : State) (i : Instr) (n : Net), i ∈ s.netlist.instances → n ∈ instrNets i → s.Undriven n →
    ∃ r, step s = .refused r

/-- R133: a netlist that wires an argument of another type to a port is refused before evaluation. -/
def Obligations.WrongWidthIsRefused : Prop :=
  ∀ (s : State) (i : Instr) (k : Nat) (t : Ty) (a : Src), i ∈ s.netlist.instances → i.comp.inPorts[k]? = some t →
    i.args[k]? = some a → s.srcType a ≠ .ok t → ∃ r, step s = .refused r

/-- R151: a netlist with feedback is refused before evaluation, through any number of instances, one included. That
dependence is counted by whole instances is the model's inference, log entry 25. -/
def Obligations.FeedbackIsRefused : Prop :=
  ∀ (s : State) (loop : List Name), Feedback s.netlist.instances loop → ∃ r, step s = .refused r

/-- R135: a netlist is refused before evaluation exactly when it is written for the other selector convention (a tag of
the netlist, log entry 12), wires an argument that is undriven or of another type to a port, or feeds a signal back
(counted by whole instances, log entry 25); or when two instances share a name, which is the model's choice, log entry
10. `LegalArgumentsHaveTheirType` ties the type of an argument, `State.srcType`, to the values it carries. -/
def Obligations.RefusedExactlyWhenNoNetlistOfTheCore : Prop :=
  ∀ s : State, (∃ r, s.check = some r ∧ step s = .refused r) ↔
    s.netlist.convention = .other ∨ ¬(s.netlist.instances.map Instr.name).Nodup ∨
    (∃ i ∈ s.netlist.instances, ∃ (k : Nat) (t : Ty) (a : Src), i.comp.inPorts[k]? = some t ∧ i.args[k]? = some a ∧
      s.srcType a ≠ .ok t) ∨
    ∃ loop, Feedback s.netlist.instances loop

/-- Only feedback is refused as a cycle: no acyclic netlist is, in whatever order it is listed. Dependence is counted by
whole instances, log entry 25. -/
def Obligations.OnlyFeedbackIsRefusedAsCycle : Prop :=
  ∀ s : State, s.check = some .cycle → ∃ loop, Feedback s.netlist.instances loop

/-- An accepted netlist consists of well-formed instances with distinct names. -/
def Obligations.AcceptedInstancesAreWellFormed : Prop :=
  ∀ s : State, s.check = none →
    (∀ i ∈ s.netlist.instances, i.wf = true) ∧ (s.netlist.instances.map Instr.name).Nodup

/-! ### Steps and runs -/

/-- A step of an accepted netlist evaluates an instance all of whose sources have settled; when none is left it changes
nothing. That there are steps, one for an instance, and what a step with nothing left does are the model's choice, log
entries 2 and 22: the core has no steps (R152). -/
def Obligations.StepRunsTheNextInstance : Prop :=
  ∀ s : State, s.check = none →
    (∀ i, s.nextInstance = some i → step s = exec i s ∧ i ∈ s.netlist.instances ∧ s.isSettled i.name = false ∧
      ∀ d ∈ dependencies i, s.isSettled d = true) ∧
    (s.nextInstance = none → step s = .next s)

/-- A step runs the decoded instance: when the bytes of an image decode to one instance and the netlist of it is
accepted, the step after loading it is the evaluation of that instance; the same for a word of the opcode table. -/
def Obligations.StepRunsTheDecodedInstance : Prop :=
  (∀ (s : State) (image : List Byte) (i : Instr), decode image = .ok (i, []) →
    ∃ t, s.load image = .ok t ∧ t = s.build [i] ∧ (t.check = none → step t = exec i t)) ∧
  ∀ (s : State) (nbits w : Nat) (i : Instr), decodeTableWord nbits w = some i →
    (s.withFetchWord nbits w).check = none → step (s.withFetchWord nbits w) = exec i (s.withFetchWord nbits w)

/-- R27 and R148: the primitive does not change between evaluations; nor do the inputs and the wiring. -/
def Obligations.PrimitiveStaysBound : Prop :=
  ∀ s t : State, step s = .next t → t.prim = s.prim ∧ t.inputs = s.inputs ∧ t.netlist = s.netlist

/-- After a change of an input, of the bound primitive (R148) or of the netlist nothing of the earlier evaluation is left
(R147), nothing but what was changed has changed, and the new evaluation starts sound. That the change discards what had
settled is the model's inference, log entry 23; that inputs not driven anew stay driven as they were is its choice, log
entry 27. -/
def Obligations.NewInputsStartANewEvaluation : Prop :=
  (∀ (s t : State) (k : Name) (v : Value), s.prim = t.prim → s.inputs = t.inputs → s.netlist = t.netlist →
    s.drive k v = t.drive k v ∧ (s.drive k v).prim = s.prim ∧ (s.drive k v).netlist = s.netlist ∧
      storeGet k (s.drive k v).inputs = some v ∧
      (∀ j, j ≠ k → storeGet j (s.drive k v).inputs = storeGet j s.inputs) ∧
      (storeWf s.inputs → (s.drive k v).Sound)) ∧
  (∀ (s t : State) (p : Prim), s.inputs = t.inputs → s.netlist = t.netlist →
    s.bindPrimitive p = t.bindPrimitive p ∧ (s.bindPrimitive p).prim = p ∧ (s.bindPrimitive p).inputs = s.inputs ∧
      (s.bindPrimitive p).netlist = s.netlist ∧ (storeWf s.inputs → (s.bindPrimitive p).Sound)) ∧
  ∀ (s t : State) (l : List Instr), s.prim = t.prim → s.inputs = t.inputs →
    s.build l = t.build l ∧ (s.build l).prim = s.prim ∧ (s.build l).inputs = s.inputs ∧
      (s.build l).netlist = { convention := .s0MostSignificant, instances := l } ∧
      (storeWf s.inputs → (s.build l).Sound)

/-- The state before any netlist is loaded is a sound evaluation: NAND is bound (R148), and nothing is driven or settled
(the model's choice, log entry 8). -/
def Obligations.ResetIsSound : Prop :=
  Contract State.reset.prim ∧ State.reset.inputs = [] ∧ State.reset.netlist.instances = [] ∧
    State.reset.settled = [] ∧ State.reset.Sound

/-- Every step keeps a sound evaluation sound: what has settled is, and stays, the function of the present inputs
(R17, R19, R35). -/
def Obligations.StepKeepsEvaluationSound : Prop :=
  ∀ s t : State, s.Sound → step s = .next t → t.Sound

/-- A sound evaluation of an accepted netlist never gets stuck (R132): every step answers a next state. -/
def Obligations.SoundEvaluationNeverStops : Prop :=
  ∀ s : State, s.Sound → s.check = none → ∃ t, step s = .next t

/-- Every accepted netlist settles: after as many steps as it has instances the evaluation is finished (R154), with the
same primitive, inputs and wiring. The steps and their number are the model's, log entry 2: the hardware has none
(R152). -/
def Obligations.EveryAcceptedNetlistSettles : Prop :=
  ∀ s : State, s.check = none → s.settled = [] → storeWf s.inputs →
    ∃ t : State, Host.Core.run Sys2Proof.core s.netlist.instances.length s = .next t ∧ t.Finished ∧
      t.prim = s.prim ∧ t.inputs = s.inputs ∧ t.netlist = s.netlist

/-- R39: the order in which a netlist lists its instances, and so the order of their evaluation, does not affect any
output: two finished evaluations of the same instances on the same inputs agree on every wire. -/
def Obligations.EvaluationOrderDoesNotMatter : Prop :=
  ∀ s t : State, s.prim = t.prim → s.inputs = t.inputs → s.netlist.instances.Perm t.netlist.instances →
    s.Finished → t.Finished → s.settled = t.settled

/-! ### Legal arguments and any number of instances -/

/-- The type the check gives an argument is the type of what the argument carries: in a sound evaluation of instances with
distinct names, an argument that reads has the type of its value, and in a finished one an argument with a type reads as a
value of it. So the check refuses no argument that carries a value of its port's type (R133, R135). -/
def Obligations.LegalArgumentsHaveTheirType : Prop :=
  (∀ (s : State) (a : Src) (v : Value), s.Sound → (s.netlist.instances.map Instr.name).Nodup → s.read a = .ok v →
    s.srcType a = .ok v.ty) ∧
  ∀ (s : State) (a : Src) (t : Ty), s.Finished → s.srcType a = .ok t → ∃ v, s.read a = .ok v ∧ v.ty = t

/-- A design may hold any number of instances of any component (R144): of every well-formed instance wired to constants,
any number of copies, each under a name of its own, is an accepted netlist. -/
def Obligations.AnyNumberOfInstancesIsAccepted : Prop :=
  ∀ (s : State) (i : Instr) (n : Nat), i.wf = true → instrNets i = [] →
    ∃ l : List Instr, l.length = n ∧ (∀ j ∈ l, j.comp = i.comp ∧ j.args = i.args) ∧ (s.build l).check = none
end

