-- ==== Sys2Proof/Laws/State.lean ====
section
/-! SUPPORT. One lemma per field per update of State, and what reading a net after an update gives. -/

namespace Sys2Proof.Machine

variable (s : State) (d k : Name) (o : Outputs) (v : Value) (p : Prim) (l : List Instr)

@[simp] theorem State.settle_prim : (s.settle d o).prim = s.prim := rfl
@[simp] theorem State.settle_inputs : (s.settle d o).inputs = s.inputs := rfl
@[simp] theorem State.settle_netlist : (s.settle d o).netlist = s.netlist := rfl
@[simp] theorem State.settle_settled : (s.settle d o).settled = storePut d o s.settled := rfl

@[simp] theorem State.bindPrimitive_prim : (s.bindPrimitive p).prim = p := rfl
@[simp] theorem State.bindPrimitive_inputs : (s.bindPrimitive p).inputs = s.inputs := rfl
@[simp] theorem State.bindPrimitive_netlist : (s.bindPrimitive p).netlist = s.netlist := rfl
@[simp] theorem State.bindPrimitive_settled : (s.bindPrimitive p).settled = [] := rfl

@[simp] theorem State.drive_prim : (s.drive k v).prim = s.prim := rfl
@[simp] theorem State.drive_inputs : (s.drive k v).inputs = storePut k v s.inputs := rfl
@[simp] theorem State.drive_netlist : (s.drive k v).netlist = s.netlist := rfl
@[simp] theorem State.drive_settled : (s.drive k v).settled = [] := rfl

@[simp] theorem State.build_prim : (s.build l).prim = s.prim := rfl
@[simp] theorem State.build_inputs : (s.build l).inputs = s.inputs := rfl
@[simp] theorem State.build_instances : (s.build l).netlist.instances = l := rfl
@[simp] theorem State.build_convention : (s.build l).netlist.convention = .s0MostSignificant := rfl
@[simp] theorem State.build_settled : (s.build l).settled = [] := rfl

/-- An evaluation answers a next state only by settling its outputs. -/
theorem State.conclude_eq_next {r : Except Refusal Outputs} {t : State} :
    s.conclude d r = .next t ↔ ∃ o, r = .ok o ∧ t = s.settle d o := by
  cases r <;> simp [State.conclude, eq_comm]

end Sys2Proof.Machine
end

