-- ==== Sys2Proof/Laws/Store.lean ====
section
/-! SUPPORT. Values by name: a read after a write, and the canonical form every write keeps. -/

namespace Sys2Proof.Machine

variable {α : Type}

@[simp] theorem storeGet_put_same (d : Name) (v : α) (l : List (Name × α)) :
    storeGet d (storePut d v l) = some v := by
  induction l with
  | nil => simp [storePut, storeGet]
  | cons x l ih =>
    obtain ⟨k, w⟩ := x
    simp only [storePut]
    split
    · simp [storeGet]
    · split
      · simp [storeGet]
      · simp [storeGet, *]

theorem storeGet_put_other {d e : Name} (h : e ≠ d) (v : α) (l : List (Name × α)) :
    storeGet e (storePut d v l) = storeGet e l := by
  induction l with
  | nil => simp [storePut, storeGet, Ne.symm h]
  | cons x l ih =>
    obtain ⟨k, w⟩ := x
    simp only [storePut]
    split
    · simp [storeGet, Ne.symm h]
    · split
      · rename_i hk
        subst hk
        simp [storeGet, Ne.symm h]
      · simp only [storeGet, ih]

theorem mem_names_storePut (d e : Name) (v : α) (l : List (Name × α)) :
    e ∈ (storePut d v l).map Prod.fst → e = d ∨ e ∈ l.map Prod.fst := by
  induction l with
  | nil => simp [storePut]
  | cons x l ih =>
    obtain ⟨k, w⟩ := x
    simp only [storePut]
    split
    · simp
    · split
      · rename_i hk
        subst hk
        simp +contextual
      · simp only [List.map_cons, List.mem_cons]
        rintro (h | h)
        · exact .inr (.inl h)
        · rcases ih h with h | h
          · exact .inl h
          · exact .inr (.inr h)

/-- Every write keeps the canonical form. -/
theorem storePut_wf (d : Name) (v : α) (l : List (Name × α)) (h : storeWf l) : storeWf (storePut d v l) := by
  induction l with
  | nil => simp [storePut, storeWf]
  | cons x l ih =>
    obtain ⟨k, w⟩ := x
    simp only [storeWf, List.map_cons, List.pairwise_cons] at h ih
    simp only [storePut]
    split
    · rename_i hd
      simp only [storeWf, List.map_cons, List.pairwise_cons, List.mem_cons]
      refine ⟨?_, h⟩
      rintro a (rfl | ha)
      · exact hd
      · exact lt_trans hd (h.1 a ha)
    · split
      · rename_i hk
        subst hk
        simpa only [storeWf, List.map_cons, List.pairwise_cons] using h
      · rename_i hd hk
        simp only [storeWf, List.map_cons, List.pairwise_cons]
        refine ⟨fun a ha => ?_, ih h.2⟩
        rcases mem_names_storePut d a v l ha with rfl | ha
        · exact lt_of_le_of_ne (not_lt.mp hd) hk
        · exact h.1 a ha

/-- A name below all the names carries nothing. -/
theorem storeGet_eq_none {d : Name} {l : List (Name × α)} (h : ∀ e ∈ l.map Prod.fst, d < e) : storeGet d l = none := by
  induction l with
  | nil => rfl
  | cons x l ih =>
    obtain ⟨k, w⟩ := x
    simp only [List.map_cons, List.mem_cons, forall_eq_or_imp] at h
    simp [storeGet, (ne_of_lt h.1).symm, ih h.2]

/-- In canonical form, equal contents are equal data. -/
theorem store_ext {l m : List (Name × α)} (hl : storeWf l) (hm : storeWf m) (h : ∀ d, storeGet d l = storeGet d m) :
    l = m := by
  induction l generalizing m with
  | nil =>
    cases m with
    | nil => rfl
    | cons y m => obtain ⟨k, w⟩ := y; simpa [storeGet] using h k
  | cons x l ih =>
    obtain ⟨k, v⟩ := x
    cases m with
    | nil => simpa [storeGet] using h k
    | cons y m =>
      obtain ⟨k', v'⟩ := y
      simp only [storeWf, List.map_cons, List.pairwise_cons] at hl hm
      have hk : k = k' := by
        rcases lt_trichotomy k k' with hlt | heq | hgt
        · have := h k
          rw [storeGet_eq_none (d := k) (l := (k', v') :: m)] at this
          · simp [storeGet] at this
          · simp only [List.map_cons, List.mem_cons, forall_eq_or_imp]
            exact ⟨hlt, fun e he => lt_trans hlt (hm.1 e he)⟩
        · exact heq
        · have := h k'
          rw [storeGet_eq_none (d := k') (l := (k, v) :: l)] at this
          · simp [storeGet] at this
          · simp only [List.map_cons, List.mem_cons, forall_eq_or_imp]
            exact ⟨hgt, fun e he => lt_trans hgt (hl.1 e he)⟩
      subst hk
      have hv : v = v' := by simpa [storeGet] using h k
      subst hv
      congr 1
      refine ih hl.2 hm.2 fun d => ?_
      by_cases hd : k = d
      · subst hd
        rw [storeGet_eq_none hl.1, storeGet_eq_none hm.1]
      · simpa [storeGet, hd] using h d

/-- An instance that has settled stays settled, and the one that settles is. -/
theorem State.isSettled_settle (s : State) (d e : Name) (o : Outputs) :
    (s.settle d o).isSettled e = (decide (e = d) || s.isSettled e) := by
  by_cases h : e = d
  · subst h; simp [State.isSettled]
  · simp [State.isSettled, storeGet_put_other h, h]

/-- Settling an instance leaves every net but its own outputs as it was. -/
theorem State.net_settle {s : State} {d : Name} {o : Outputs} {n : Net} (h : ∀ p, n ≠ .wire d p) :
    (s.settle d o).net n = s.net n := by
  cases n with
  | input k => rfl
  | wire e p =>
    have : e ≠ d := fun he => h p (by rw [he])
    simp only [State.net, State.settle_settled, storeGet_put_other this]

end Sys2Proof.Machine
end

