-- ==== Sys2Proof/Laws/Operands.lean ====
section
/-! SUPPORT. The buses position by position, and for each shape of evaluation the two lemmas that say once all it can do:
what it answers when its arguments are read, and what must have been read when it answers a next state. -/

namespace Sys2Proof.Machine

@[simp] theorem busOfFn_getMsbD (n : Nat) (f : Nat → Bit) (i : Nat) (h : i < n) : (busOfFn n f).getMsbD i = f i := by
  induction n with
  | zero => omega
  | succ n ih =>
    rw [BitVec.getMsbD_eq_getLsbD, busOfFn, BitVec.getLsbD_concat]
    by_cases hi : i = n
    · subst hi
      simp
    · have h1 : i < n := by omega
      have h2 : n + 1 - 1 - i ≠ 0 := by omega
      have h3 : n + 1 - 1 - i - 1 = n - 1 - i := by omega
      have := ih h1
      rw [BitVec.getMsbD_eq_getLsbD] at this
      simp only [h2, if_false, h3]
      simpa [h1, h] using this

/-- Two buses with the same positions are the same bus. -/
theorem bus_ext {n : Nat} {a b : Bus n} (h : ∀ i < n, a.getMsbD i = b.getMsbD i) : a = b := by
  apply BitVec.eq_of_getMsbD_eq
  intro i hi
  exact h i hi

theorem busSlice_getMsbD {n : Nat} (m i : Nat) (v : Bus n) (k : Nat) (h : k < m) :
    (busSlice m i v).getMsbD k = v.getMsbD (i + k) := busOfFn_getMsbD m _ k h

section
variable {α β γ : Type} {ra : Reader α} {rb : Reader β} {rc : Reader γ} {d : Name} {s t : State}

theorem eval1_next {f : Prim → α → Outputs} {a : Src} {x : α} (ha : ra s a = .ok x) :
    eval1 ra f d a s = .next (s.settle d (f s.prim x)) := by
  simp [eval1, ha, State.conclude, bind, Except.bind]

theorem eval1_eq_next {f : Prim → α → Outputs} {a : Src} :
    eval1 ra f d a s = .next t ↔ ∃ x, ra s a = .ok x ∧ t = s.settle d (f s.prim x) := by
  cases ha : ra s a <;> simp [eval1, ha, State.conclude, bind, Except.bind, eq_comm]

theorem eval2_next {f : Prim → α → β → Outputs} {a b : Src} {x : α} {y : β} (ha : ra s a = .ok x)
    (hb : rb s b = .ok y) : eval2 ra rb f d a b s = .next (s.settle d (f s.prim x y)) := by
  simp [eval2, ha, hb, State.conclude, bind, Except.bind]

theorem eval2_eq_next {f : Prim → α → β → Outputs} {a b : Src} :
    eval2 ra rb f d a b s = .next t ↔
      ∃ x y, ra s a = .ok x ∧ rb s b = .ok y ∧ t = s.settle d (f s.prim x y) := by
  cases ha : ra s a <;> cases hb : rb s b <;>
    simp [eval2, ha, hb, State.conclude, bind, Except.bind, eq_comm]

theorem eval3_next {f : Prim → α → β → γ → Outputs} {a b c : Src} {x : α} {y : β} {z : γ} (ha : ra s a = .ok x)
    (hb : rb s b = .ok y) (hc : rc s c = .ok z) :
    eval3 ra rb rc f d a b c s = .next (s.settle d (f s.prim x y z)) := by
  simp [eval3, ha, hb, hc, State.conclude, bind, Except.bind]

theorem eval3_eq_next {f : Prim → α → β → γ → Outputs} {a b c : Src} :
    eval3 ra rb rc f d a b c s = .next t ↔
      ∃ x y z, ra s a = .ok x ∧ rb s b = .ok y ∧ rc s c = .ok z ∧ t = s.settle d (f s.prim x y z) := by
  cases ha : ra s a <;> cases hb : rb s b <;> cases hc : rc s c <;>
    simp [eval3, ha, hb, hc, State.conclude, bind, Except.bind, eq_comm]

theorem evalMux4_eq_next {f : Prim → α → α → α → α → Bus 2 → Outputs} {a b c e sel : Src} :
    evalMux4 ra f d a b c e sel s = .next t ↔
      ∃ va vb vc vd vs, ra s a = .ok va ∧ ra s b = .ok vb ∧ ra s c = .ok vc ∧ ra s e = .ok vd ∧
        s.readBus2 sel = .ok vs ∧ t = s.settle d (f s.prim va vb vc vd vs) := by
  cases ha : ra s a <;> cases hb : ra s b <;> cases hc : ra s c <;> cases he : ra s e <;>
    cases hs : s.readBus2 sel <;>
    simp [evalMux4, ha, hb, hc, he, hs, State.conclude, bind, Except.bind, eq_comm]

theorem evalMux4_next {f : Prim → α → α → α → α → Bus 2 → Outputs} {a b c e sel : Src} {va vb vc vd : α} {vs : Bus 2}
    (ha : ra s a = .ok va) (hb : ra s b = .ok vb) (hc : ra s c = .ok vc) (he : ra s e = .ok vd)
    (hs : s.readBus2 sel = .ok vs) :
    evalMux4 ra f d a b c e sel s = .next (s.settle d (f s.prim va vb vc vd vs)) :=
  evalMux4_eq_next.mpr ⟨_, _, _, _, _, ha, hb, hc, he, hs, rfl⟩

theorem evalMux8_next {f : Prim → Out8 α → Bus 3 → Outputs} {a b c e g h k l sel : Src} {v : Out8 α} {vs : Bus 3}
    (ha : ra s a = .ok v.a) (hb : ra s b = .ok v.b) (hc : ra s c = .ok v.c) (he : ra s e = .ok v.d)
    (hg : ra s g = .ok v.e) (hh : ra s h = .ok v.f) (hk : ra s k = .ok v.g) (hl : ra s l = .ok v.h)
    (hs : s.readBus3 sel = .ok vs) :
    evalMux8 ra f d a b c e g h k l sel s = .next (s.settle d (f s.prim v vs)) := by
  simp [evalMux8, ha, hb, hc, he, hg, hh, hk, hl, hs, State.conclude, bind, Except.bind]

theorem evalMux8_eq_next {f : Prim → Out8 α → Bus 3 → Outputs} {a b c e g h k l sel : Src} :
    evalMux8 ra f d a b c e g h k l sel s = .next t ↔
      ∃ (v : Out8 α) (vs : Bus 3), ra s a = .ok v.a ∧ ra s b = .ok v.b ∧ ra s c = .ok v.c ∧ ra s e = .ok v.d ∧
        ra s g = .ok v.e ∧ ra s h = .ok v.f ∧ ra s k = .ok v.g ∧ ra s l = .ok v.h ∧ s.readBus3 sel = .ok vs ∧
        t = s.settle d (f s.prim v vs) := by
  constructor
  · intro hyp
    simp only [evalMux8, State.conclude_eq_next, bind, Except.bind] at hyp
    obtain ⟨o, ho, rfl⟩ := hyp
    cases ha : ra s a with | error => simp [ha] at ho | ok va => _
    cases hb : ra s b with | error => simp [ha, hb] at ho | ok vb => _
    cases hc : ra s c with | error => simp [ha, hb, hc] at ho | ok vc => _
    cases he : ra s e with | error => simp [ha, hb, hc, he] at ho | ok ve => _
    cases hg : ra s g with | error => simp [ha, hb, hc, he, hg] at ho | ok vg => _
    cases hh : ra s h with | error => simp [ha, hb, hc, he, hg, hh] at ho | ok vh => _
    cases hk : ra s k with | error => simp [ha, hb, hc, he, hg, hh, hk] at ho | ok vk => _
    cases hl : ra s l with | error => simp [ha, hb, hc, he, hg, hh, hk, hl] at ho | ok vl => _
    cases hs : s.readBus3 sel with | error => simp [ha, hb, hc, he, hg, hh, hk, hl, hs] at ho | ok vs => _
    simp only [ha, hb, hc, he, hg, hh, hk, hl, hs, Except.ok.injEq] at ho
    exact ⟨⟨va, vb, vc, ve, vg, vh, vk, vl⟩, vs, rfl, rfl, rfl, rfl, rfl, rfl, rfl, rfl, rfl, by rw [← ho]⟩
  · rintro ⟨v, vs, ha, hb, hc, he, hg, hh, hk, hl, hs, rfl⟩
    exact evalMux8_next ha hb hc he hg hh hk hl hs

end

section
variable {f : Prim → Bus 16 → Bus 16 → ControlWord → Outputs} {d : Name} {x y zx nx zy ny fc no : Src} {s t : State}

theorem evalAlu_next {vx vy : Bus 16} {w : ControlWord} (hx : s.readBus16 x = .ok vx) (hy : s.readBus16 y = .ok vy)
    (h1 : s.readBit zx = .ok w.zx) (h2 : s.readBit nx = .ok w.nx) (h3 : s.readBit zy = .ok w.zy)
    (h4 : s.readBit ny = .ok w.ny) (h5 : s.readBit fc = .ok w.f) (h6 : s.readBit no = .ok w.no) :
    evalAlu f d x y zx nx zy ny fc no s = .next (s.settle d (f s.prim vx vy w)) := by
  simp [evalAlu, hx, hy, h1, h2, h3, h4, h5, h6, State.conclude, bind, Except.bind]

theorem evalAlu_eq_next :
    evalAlu f d x y zx nx zy ny fc no s = .next t ↔
      ∃ (vx vy : Bus 16) (w : ControlWord), s.readBus16 x = .ok vx ∧ s.readBus16 y = .ok vy ∧
        s.readBit zx = .ok w.zx ∧ s.readBit nx = .ok w.nx ∧ s.readBit zy = .ok w.zy ∧ s.readBit ny = .ok w.ny ∧
        s.readBit fc = .ok w.f ∧ s.readBit no = .ok w.no ∧ t = s.settle d (f s.prim vx vy w) := by
  constructor
  · intro hyp
    simp only [evalAlu, State.conclude_eq_next, bind, Except.bind] at hyp
    obtain ⟨o, ho, rfl⟩ := hyp
    cases hx : s.readBus16 x with | error => simp [hx] at ho | ok vx => _
    cases hy : s.readBus16 y with | error => simp [hx, hy] at ho | ok vy => _
    cases h1 : s.readBit zx with | error => simp [hx, hy, h1] at ho | ok b1 => _
    cases h2 : s.readBit nx with | error => simp [hx, hy, h1, h2] at ho | ok b2 => _
    cases h3 : s.readBit zy with | error => simp [hx, hy, h1, h2, h3] at ho | ok b3 => _
    cases h4 : s.readBit ny with | error => simp [hx, hy, h1, h2, h3, h4] at ho | ok b4 => _
    cases h5 : s.readBit fc with | error => simp [hx, hy, h1, h2, h3, h4, h5] at ho | ok b5 => _
    cases h6 : s.readBit no with | error => simp [hx, hy, h1, h2, h3, h4, h5, h6] at ho | ok b6 => _
    simp only [hx, hy, h1, h2, h3, h4, h5, h6, Except.ok.injEq] at ho
    exact ⟨vx, vy, ⟨b1, b2, b3, b4, b5, b6⟩, rfl, rfl, rfl, rfl, rfl, rfl, rfl, rfl, by rw [← ho]⟩
  · rintro ⟨vx, vy, w, hx, hy, h1, h2, h3, h4, h5, h6, rfl⟩
    exact evalAlu_next hx hy h1 h2 h3 h4 h5 h6

end

end Sys2Proof.Machine
end

