-- ==== Sys2Proof/Laws/Gates.lean ====
section
/-! SUPPORT. What the gates, the lifted gates, fan-out and reduction give, position by position for every primitive, and
as Boolean functions under the contract of the primitive. -/

namespace Sys2Proof.Machine

/-- The contract leaves one table. -/
theorem contract_iff_nand {p : Prim} : Contract p ↔ p = Prim.nand := by
  constructor
  · intro h
    obtain ⟨a, b, c, d⟩ := p
    have h1 := h false false
    have h2 := h false true
    have h3 := h true false
    have h4 := h true true
    simp only [primApp, Bool.and_false, Bool.and_true, Bool.not_false, Bool.not_true] at h1 h2 h3 h4
    simp [Prim.nand, h1, h2, h3, h4]
  · rintro rfl
    decide

section
variable {p : Prim} (h : Contract p)
include h

theorem gateNot_contract (a : Bit) : gateNot p a = !a := by
  obtain rfl := contract_iff_nand.mp h
  cases a <;> rfl

theorem gateAnd_contract (a b : Bit) : gateAnd p a b = (a && b) := by
  obtain rfl := contract_iff_nand.mp h
  cases a <;> cases b <;> rfl

theorem gateOr_contract (a b : Bit) : gateOr p a b = (a || b) := by
  obtain rfl := contract_iff_nand.mp h
  cases a <;> cases b <;> rfl

theorem gateXor_contract (a b : Bit) : gateXor p a b = (a ^^ b) := by
  obtain rfl := contract_iff_nand.mp h
  cases a <;> cases b <;> rfl

end

section
variable {n : Nat} (p : Prim) (a b : Bus n) {i : Nat} (hi : i < n)
include hi

@[simp] theorem busNot_getMsbD : (busNot p a).getMsbD i = gateNot p (a.getMsbD i) := busOfFn_getMsbD n _ i hi

@[simp] theorem busAnd_getMsbD : (busAnd p a b).getMsbD i = gateAnd p (a.getMsbD i) (b.getMsbD i) :=
  busOfFn_getMsbD n _ i hi

@[simp] theorem busOr_getMsbD : (busOr p a b).getMsbD i = gateOr p (a.getMsbD i) (b.getMsbD i) :=
  busOfFn_getMsbD n _ i hi

@[simp] theorem busXor_getMsbD : (busXor p a b).getMsbD i = gateXor p (a.getMsbD i) (b.getMsbD i) :=
  busOfFn_getMsbD n _ i hi

end

section
variable {n : Nat} {p : Prim} (h : Contract p)
include h

theorem busNot_contract (a : Bus n) : busNot p a = ~~~a :=
  bus_ext fun i hi => by simp [hi, gateNot_contract h]

theorem busAnd_contract (a b : Bus n) : busAnd p a b = a &&& b :=
  bus_ext fun i hi => by simp [hi, gateAnd_contract h]

theorem busOr_contract (a b : Bus n) : busOr p a b = a ||| b :=
  bus_ext fun i hi => by simp [hi, gateOr_contract h]

theorem busXor_contract (a b : Bus n) : busXor p a b = a ^^^ b :=
  bus_ext fun i hi => by simp [hi, gateXor_contract h]

theorem or8Way_contract (a : Bus 8) : or8Way p a = true ↔ ∃ i < 8, a.getMsbD i = true := by
  simp only [or8Way, gateOr_contract h, Bool.or_eq_true]
  constructor
  · rintro (((((((e | e) | e) | e) | e) | e) | e) | e)
    all_goals exact ⟨_, by decide, e⟩
  · rintro ⟨i, hi, e⟩
    interval_cases i <;> simp [e]

end

@[simp] theorem fanout16_getMsbD (a : Bit) {i : Nat} (hi : i < 16) : (fanout16 a).getMsbD i = a :=
  busOfFn_getMsbD 16 _ i hi

end Sys2Proof.Machine
end

