-- ==== Sys2Proof/Laws/Arith.lean ====
section
/-! SUPPORT. The adders under the contract of the primitive: the ripple of R105 is the carry chain of addition. -/

namespace Sys2Proof.Machine

variable {p : Prim} (h : Contract p)
include h

theorem halfAdder_contract (a b : Bit) : halfAdder p a b = ⟨a ^^ b, a && b⟩ := by
  simp [halfAdder, gateXor_contract h, gateAnd_contract h]

theorem fullAdder_contract (a b c : Bit) : fullAdder p a b c = ⟨(a ^^ b) ^^ c, Bool.atLeastTwo a b c⟩ := by
  obtain rfl := contract_iff_nand.mp h
  cases a <;> cases b <;> cases c <;> rfl

theorem addColumn_contract (a b : Bus 16) (k : Nat) (hk : k < 16) :
    addColumn p a b k =
      ⟨(a.getLsbD k ^^ b.getLsbD k) ^^ BitVec.carry k a b false, BitVec.carry (k + 1) a b false⟩ := by
  induction k with
  | zero =>
    simp [addColumn, halfAdder_contract h, BitVec.getMsbD_eq_getLsbD, BitVec.carry_succ, Bool.atLeastTwo]
  | succ k ih =>
    have e1 : 14 - k < 16 := by omega
    have e2 : 15 - (14 - k) = k + 1 := by omega
    rw [addColumn, ih (by omega), fullAdder_contract h]
    simp [BitVec.getMsbD_eq_getLsbD, BitVec.carry_succ (k + 1), e1, e2]

theorem add16_contract (a b : Bus 16) : add16 p a b = a + b := by
  refine bus_ext fun i hi => ?_
  rw [add16, busOfFn_getMsbD _ _ _ hi, addColumn_contract h a b _ (by omega), BitVec.getMsbD_eq_getLsbD,
    BitVec.getLsbD_add (by omega)]
  simp [hi]

end Sys2Proof.Machine
end

