-- ==== Sys2Proof/Laws/Selectors.lean ====
section
/-! SUPPORT. The two-way selectors under the contract of the primitive; the wider ones are trees of them. -/

namespace Sys2Proof.Machine

variable {p : Prim} (h : Contract p)
include h

theorem mux_contract (a b s : Bit) : mux p a b s = if s then b else a := by
  obtain rfl := contract_iff_nand.mp h
  cases a <;> cases b <;> cases s <;> rfl

theorem dMux_contract (i s : Bit) : dMux p i s = if s then ⟨false, i⟩ else ⟨i, false⟩ := by
  obtain rfl := contract_iff_nand.mp h
  cases i <;> cases s <;> rfl

theorem mux16_contract (a b : Bus 16) (s : Bit) : mux16 p a b s = if s then b else a := by
  refine bus_ext fun i hi => ?_
  cases s <;> simp [mux16, hi, gateNot_contract h, gateAnd_contract h, gateOr_contract h]

theorem dMux16_contract (i : Bus 16) (s : Bit) : dMux16 p i s = if s then ⟨ZERO16, i⟩ else ⟨i, ZERO16⟩ := by
  have e0 : busAnd p i (fanout16 false) = ZERO16 :=
    bus_ext fun k hk => by simp [hk, gateAnd_contract h]
  have e1 : busAnd p i (fanout16 true) = i :=
    bus_ext fun k hk => by simp [hk, gateAnd_contract h]
  cases s <;> simp [dMux16, gateNot_contract h, e0, e1]

end Sys2Proof.Machine
end

