-- ==== Sys2Proof/Laws/Alu.lean ====
section
/-! SUPPORT. The parts of the ALU under the contract of the primitive. -/

namespace Sys2Proof.Machine

/-- Position 0 is the sign (44_alu.md R111). -/
theorem flagNg_eq_true (v : Bus 16) : flagNg v = true ↔ v.toInt < 0 := by
  rw [flagNg, show v.getMsbD 0 = v.msb from rfl, BitVec.msb_eq_toInt, decide_eq_true_eq]

variable {p : Prim} (h : Contract p)
include h

theorem aluOperand_contract (v : Bus 16) (z n : Bit) :
    aluOperand p v z n = if n then ~~~(if z then ZERO16 else v) else (if z then ZERO16 else v) := by
  simp only [aluOperand, mux16_contract h, busNot_contract h]

theorem aluResult_contract (x y : Bus 16) (w : ControlWord) :
    aluResult p x y w =
      let x2 := aluOperand p x w.zx w.nx
      let y2 := aluOperand p y w.zy w.ny
      let o := if w.f then x2 + y2 else x2 &&& y2
      if w.no then ~~~o else o := by
  simp only [aluResult, mux16_contract h, busNot_contract h, busAnd_contract h, add16_contract h]

theorem flagZr_contract (v : Bus 16) : flagZr p v = true ↔ v = ZERO16 := by
  rw [flagZr, gateNot_contract h, gateOr_contract h, Bool.not_eq_true', Bool.or_eq_false_iff, ← Bool.not_eq_true,
    ← Bool.not_eq_true, or8Way_contract h, or8Way_contract h]
  constructor
  · rintro ⟨hi, lo⟩
    refine bus_ext fun i hlt => ?_
    rcases Nat.lt_or_ge i 8 with h8 | h8
    · have := fun e => hi ⟨i, h8, e⟩
      rw [busSlice_getMsbD _ _ _ _ h8] at this
      simpa using this
    · have := fun e => lo ⟨i - 8, by omega, e⟩
      rw [busSlice_getMsbD _ _ _ _ (by omega), show 8 + (i - 8) = i by omega] at this
      simpa using this
  · rintro rfl
    constructor <;> rintro ⟨i, hi, e⟩ <;> rw [busSlice_getMsbD _ _ _ _ hi] at e <;> simp at e

end Sys2Proof.Machine
end

