-- ==== Sys2Proof/Laws/Exec.lean ====
section
/-! SUPPORT. What evaluating any instance can do: settle its own outputs, one of the right type on each of its output
ports, from its arguments and the primitive alone; or be refused. -/

namespace Sys2Proof.Machine

/-- Every evaluation concludes on its own instance. -/
theorem exec_concludes (i : Instr) (s : State) : ∃ r, exec i s = s.conclude i.name r := by
  cases i <;> exact ⟨_, rfl⟩

/-- An evaluation that answers a next state has settled the outputs of its own instance and done nothing else. -/
theorem exec_settles {i : Instr} {s t : State} (h : exec i s = .next t) : ∃ o, t = s.settle i.name o := by
  obtain ⟨r, hr⟩ := exec_concludes i s
  obtain ⟨o, -, ho⟩ := (State.conclude_eq_next s i.name).mp (hr.symm.trans h)
  exact ⟨o, ho⟩

/-- In two states with the same primitive and the same values on its arguments, an instance concludes alike. -/
theorem exec_congr (i : Instr) {s t : State} (hp : s.prim = t.prim) (ha : ∀ a ∈ i.args, s.read a = t.read a) :
    ∃ r, exec i s = s.conclude i.name r ∧ exec i t = t.conclude i.name r := by
  cases i <;>
    simp only [Instr.args, List.mem_cons, List.not_mem_nil, or_false, forall_eq_or_imp, forall_eq] at ha <;>
    (refine ⟨_, rfl, ?_⟩
     simp -zeta only [State.readBit, State.readBus2, State.readBus3, State.readBus4, State.readBus8,
       State.readBus16, hp, ha]
     rfl)

/-- The outputs of an evaluation have the types of the component's output ports. -/
theorem exec_typed {i : Instr} {s t : State} (h : exec i s = .next t) :
    ∃ o : Outputs, t = s.settle i.name o ∧ o.map (fun q => (q.1, q.2.ty)) = i.comp.outPorts := by
  cases i <;> simp only [exec,
    execP, execNot, execAnd, execOr, execXor, execNot2, execNot3, execNot4, execNot8, execNot16, execAnd2,
    execAnd3, execAnd4, execAnd8, execAnd16, execOr2, execOr3, execOr4, execOr8, execOr16, execXor2, execXor3,
    execXor4, execXor8, execXor16, execFanout16, execOr8Way, execMux, execMux16, execMux4Way16, execMux4Way,
    execMux8Way16, execMux8Way, execDMux, execDMux16, execDMux4Way, execDMux4Way16, execDMux8Way,
    execDMux8Way16, execHalfAdder, execFullAdder, execAdd16, execInc16, execAlu, execAluZero, execAluOne,
    execAluNegOne, execAluX, execAluY, execAluNotX, execAluNotY, execAluNegX, execAluNegY, execAluXPlusOne,
    execAluYPlusOne, execAluXMinusOne, execAluYMinusOne, execAluXPlusY, execAluXMinusY, execAluYMinusX,
    execAluXAndY, execAluXOrY, evalAluWord, eval1_eq_next, eval2_eq_next, eval3_eq_next, evalMux4_eq_next,
    evalMux8_eq_next, evalAlu_eq_next] at h
  all_goals first
    | (obtain ⟨_, _, rfl⟩ := h; exact ⟨_, rfl, rfl⟩)
    | (obtain ⟨_, _, _, _, rfl⟩ := h; exact ⟨_, rfl, rfl⟩)
    | (obtain ⟨_, _, _, _, _, _, rfl⟩ := h; exact ⟨_, rfl, rfl⟩)
    | (obtain ⟨_, _, _, _, _, _, _, _, _, _, rfl⟩ := h; exact ⟨_, rfl, rfl⟩)
    | (obtain ⟨_, _, _, _, _, _, _, _, _, _, _, rfl⟩ := h; exact ⟨_, rfl, rfl⟩)

section
variable {s : State} {a : Src}

theorem read_of_readBit {x : Bit} (h : s.readBit a = .ok x) : ∃ v, s.read a = .ok v := by
  cases hr : s.read a <;> simp_all [State.readBit, bind, Except.bind]

theorem read_of_readBus2 {x : Bus 2} (h : s.readBus2 a = .ok x) : ∃ v, s.read a = .ok v := by
  cases hr : s.read a <;> simp_all [State.readBus2, bind, Except.bind]

theorem read_of_readBus3 {x : Bus 3} (h : s.readBus3 a = .ok x) : ∃ v, s.read a = .ok v := by
  cases hr : s.read a <;> simp_all [State.readBus3, bind, Except.bind]

theorem read_of_readBus4 {x : Bus 4} (h : s.readBus4 a = .ok x) : ∃ v, s.read a = .ok v := by
  cases hr : s.read a <;> simp_all [State.readBus4, bind, Except.bind]

theorem read_of_readBus8 {x : Bus 8} (h : s.readBus8 a = .ok x) : ∃ v, s.read a = .ok v := by
  cases hr : s.read a <;> simp_all [State.readBus8, bind, Except.bind]

theorem read_of_readBus16 {x : Bus 16} (h : s.readBus16 a = .ok x) : ∃ v, s.read a = .ok v := by
  cases hr : s.read a <;> simp_all [State.readBus16, bind, Except.bind]

end

/-- An instance that evaluates has read every one of its arguments. -/
theorem exec_reads {i : Instr} {s t : State} (h : exec i s = .next t) : ∀ a ∈ i.args, ∃ v, s.read a = .ok v := by
  cases i <;> simp only [exec,
    execP, execNot, execAnd, execOr, execXor, execNot2, execNot3, execNot4, execNot8, execNot16, execAnd2,
    execAnd3, execAnd4, execAnd8, execAnd16, execOr2, execOr3, execOr4, execOr8, execOr16, execXor2, execXor3,
    execXor4, execXor8, execXor16, execFanout16, execOr8Way, execMux, execMux16, execMux4Way16, execMux4Way,
    execMux8Way16, execMux8Way, execDMux, execDMux16, execDMux4Way, execDMux4Way16, execDMux8Way,
    execDMux8Way16, execHalfAdder, execFullAdder, execAdd16, execInc16, execAlu, execAluZero, execAluOne,
    execAluNegOne, execAluX, execAluY, execAluNotX, execAluNotY, execAluNegX, execAluNegY, execAluXPlusOne,
    execAluYPlusOne, execAluXMinusOne, execAluYMinusOne, execAluXPlusY, execAluXMinusY, execAluYMinusX,
    execAluXAndY, execAluXOrY, evalAluWord, eval1_eq_next, eval2_eq_next, eval3_eq_next, evalMux4_eq_next,
    evalMux8_eq_next, evalAlu_eq_next] at h
  all_goals simp only [Instr.args, List.mem_cons, List.not_mem_nil, or_false, forall_eq_or_imp, forall_eq]
  all_goals first
    | obtain ⟨_, h1, -⟩ := h
      first
      | exact read_of_readBit h1 | exact read_of_readBus2 h1 | exact read_of_readBus3 h1
      | exact read_of_readBus4 h1 | exact read_of_readBus8 h1 | exact read_of_readBus16 h1
    | obtain ⟨_, _, h1, h2, -⟩ := h
      constructor
      · first
        | exact read_of_readBit h1 | exact read_of_readBus2 h1 | exact read_of_readBus3 h1
        | exact read_of_readBus4 h1 | exact read_of_readBus8 h1 | exact read_of_readBus16 h1
      · first
        | exact read_of_readBit h2 | exact read_of_readBus2 h2 | exact read_of_readBus3 h2
        | exact read_of_readBus4 h2 | exact read_of_readBus8 h2 | exact read_of_readBus16 h2
    | obtain ⟨_, _, _, h1, h2, h3, -⟩ := h
      first
      | exact ⟨read_of_readBit h1, read_of_readBit h2, read_of_readBit h3⟩
      | exact ⟨read_of_readBus16 h1, read_of_readBus16 h2, read_of_readBit h3⟩
    | obtain ⟨_, _, _, _, _, h1, h2, h3, h4, h5, -⟩ := h
      first
      | exact ⟨read_of_readBit h1, read_of_readBit h2, read_of_readBit h3, read_of_readBit h4, read_of_readBus2 h5⟩
      | exact ⟨read_of_readBus16 h1, read_of_readBus16 h2, read_of_readBus16 h3, read_of_readBus16 h4,
          read_of_readBus2 h5⟩
    | obtain ⟨_, _, h1, h2, h3, h4, h5, h6, h7, h8, h9, -⟩ := h
      first
      | exact ⟨read_of_readBit h1, read_of_readBit h2, read_of_readBit h3, read_of_readBit h4, read_of_readBit h5,
          read_of_readBit h6, read_of_readBit h7, read_of_readBit h8, read_of_readBus3 h9⟩
      | exact ⟨read_of_readBus16 h1, read_of_readBus16 h2, read_of_readBus16 h3, read_of_readBus16 h4,
          read_of_readBus16 h5, read_of_readBus16 h6, read_of_readBus16 h7, read_of_readBus16 h8, read_of_readBus3 h9⟩
    | obtain ⟨_, _, _, h1, h2, h3, h4, h5, h6, h7, h8, -⟩ := h
      exact ⟨read_of_readBus16 h1, read_of_readBus16 h2, read_of_readBit h3, read_of_readBit h4, read_of_readBit h5,
        read_of_readBit h6, read_of_readBit h7, read_of_readBit h8⟩

end Sys2Proof.Machine
end

