-- ==== Sys2Proof/Laws/Names.lean ====
section
/-! SUPPORT. The bytes of a name: they give the name back, and a name takes at least one byte. -/

namespace Sys2Proof

theorem toNat_ofNat_byte {n : Nat} (h : n < 256) : (BitVec.ofNat 8 n).toNat = n := by
  rw [BitVec.toNat_ofNat]
  exact Nat.mod_eq_of_lt h

theorem decodeName_encodeDigits (r : List Byte) {k d : Nat} (h : d ≤ k) :
    decodeName (encodeDigits k d ++ r) = .ok (d, r) := by
  induction k generalizing d with
  | zero =>
    obtain rfl : d = 0 := Nat.le_zero.mp h
    rfl
  | succ k ih =>
    unfold encodeDigits
    split
    · rename_i hd
      simp only [List.cons_append, List.nil_append, decodeName, toNat_ofNat_byte (Nat.lt_trans hd (by decide)), if_pos hd]
    · have hb : (BitVec.ofNat 8 (128 + d % 128)).toNat = 128 + d % 128 := toNat_ofNat_byte (by omega)
      simp only [List.cons_append, decodeName, hb, ih (show d / 128 ≤ k by omega), bind, Except.bind]
      rw [if_neg (by omega)]
      congr 2
      omega

/-- The bytes of a name give it back, whatever follows. -/
theorem decodeName_encodeName (d : Name) (r : List Byte) : decodeName (encodeName d ++ r) = .ok (d, r) :=
  decodeName_encodeDigits r (Nat.le_refl d)

/-- A name takes at least one byte. -/
theorem decodeName_length {bs r : List Byte} {d : Nat} (h : decodeName bs = .ok (d, r)) : r.length < bs.length := by
  induction bs generalizing d r with
  | nil => cases h
  | cons b bs ih =>
    unfold decodeName at h
    split at h
    · cases h
      exact Nat.lt_succ_self _
    · cases hd : decodeName bs with
      | error e => simp [hd, bind, Except.bind] at h
      | ok p =>
        obtain ⟨e, q⟩ := p
        simp only [hd, bind, Except.bind, Except.ok.injEq, Prod.mk.injEq] at h
        exact h.2 ▸ Nat.lt_succ_of_lt (ih hd)

end Sys2Proof
end

