-- ==== Sys2Proof/Laws/Netlist.lean ====
section
/-! SUPPORT. An argument depends only on the nets it is wired to, and the check only on the inputs and the netlist. -/

namespace Sys2Proof.Machine

variable {s t : State}

theorem readBitSrc_congr {b : BitSrc} (h : ∀ n ∈ bitSrcNets b, s.net n = t.net n) :
    s.readBitSrc b = t.readBitSrc b := by
  cases b <;> simp [bitSrcNets] at h <;> simp [State.readBitSrc, h]

theorem readBitSrcs_congr {l : List BitSrc} (h : ∀ n ∈ l.flatMap bitSrcNets, s.net n = t.net n) :
    s.readBitSrcs l = t.readBitSrcs l := by
  induction l with
  | nil => rfl
  | cons b l ih =>
    simp only [List.flatMap_cons, List.mem_append] at h
    simp only [State.readBitSrcs, readBitSrc_congr fun n hn => h n (.inl hn), ih fun n hn => h n (.inr hn)]

/-- An argument has the same value where its nets have. -/
theorem read_congr {a : Src} (h : ∀ n ∈ srcNets a, s.net n = t.net n) : s.read a = t.read a := by
  cases a with
  | tie v => rfl
  | net n => exact h n (by simp [srcNets])
  | pos n i => simp [State.read, h n (by simp [srcNets])]
  | slice n i j => simp [State.read, h n (by simp [srcNets])]
  | assemble bs => simp [State.read, readBitSrcs_congr h]

theorem net_of_readBitSrc {b : BitSrc} {x : Bit} (h : s.readBitSrc b = .ok x) :
    ∀ n ∈ bitSrcNets b, ∃ v, s.net n = .ok v := by
  cases b with
  | tie => simp [bitSrcNets]
  | net n =>
    cases hn : s.net n with
    | ok v => simp [bitSrcNets, hn]
    | error r => simp [State.readBitSrc, hn, bind, Except.bind] at h
  | pos n i =>
    cases hn : s.net n with
    | ok v => simp [bitSrcNets, hn]
    | error r => simp [State.readBitSrc, hn, bind, Except.bind] at h

theorem net_of_readBitSrcs {l : List BitSrc} {x : List Bit} (h : s.readBitSrcs l = .ok x) :
    ∀ n ∈ l.flatMap bitSrcNets, ∃ v, s.net n = .ok v := by
  induction l generalizing x with
  | nil => simp
  | cons b l ih =>
    simp only [State.readBitSrcs, bind, Except.bind] at h
    cases hb : s.readBitSrc b with
    | error r => simp [hb] at h
    | ok y =>
      cases hl : s.readBitSrcs l with
      | error r => simp [hb, hl] at h
      | ok z =>
        simp only [List.flatMap_cons, List.mem_append]
        rintro n (hn | hn)
        · exact net_of_readBitSrc hb n hn
        · exact ih hl n hn

/-- An argument that reads has a value on each of its nets. -/
theorem net_of_read {a : Src} {x : Value} (h : s.read a = .ok x) : ∀ n ∈ srcNets a, ∃ v, s.net n = .ok v := by
  cases a with
  | tie v => simp [srcNets]
  | net n => simpa [srcNets] using ⟨x, h⟩
  | pos n i =>
    cases hn : s.net n with
    | ok v => simp [srcNets, hn]
    | error r => simp [State.read, hn, bind, Except.bind] at h
  | slice n i j =>
    cases hn : s.net n with
    | ok v => simp [srcNets, hn]
    | error r => simp [State.read, hn, bind, Except.bind] at h
  | assemble bs =>
    cases hn : s.readBitSrcs bs with
    | ok v => exact net_of_readBitSrcs hn
    | error r => simp [State.read, hn, bind, Except.bind] at h

section
variable (h1 : s.inputs = t.inputs) (h2 : s.netlist = t.netlist)
include h1 h2

theorem netType_congr (n : Net) : s.netType n = t.netType n := by
  cases n <;> simp [State.netType, h1, h2]

theorem bitSrcType_congr (b : BitSrc) : s.bitSrcType b = t.bitSrcType b := by
  cases b <;> simp [State.bitSrcType, netType_congr h1 h2]

theorem checkBitSrcs_congr (l : List BitSrc) : s.checkBitSrcs l = t.checkBitSrcs l := by
  induction l with
  | nil => rfl
  | cons b l ih => simp only [State.checkBitSrcs, bitSrcType_congr h1 h2, ih]

theorem srcType_congr (a : Src) : s.srcType a = t.srcType a := by
  cases a <;> simp [State.srcType, netType_congr h1 h2, checkBitSrcs_congr h1 h2]

theorem checkArgs_congr (ts : List Ty) (l : List Src) : s.checkArgs ts l = t.checkArgs ts l := by
  induction ts generalizing l with
  | nil => simp [State.checkArgs]
  | cons u ts ih => cases l <;> simp only [State.checkArgs, srcType_congr h1 h2, ih]

theorem checkInstances_congr (l : List Instr) : s.checkInstances l = t.checkInstances l := by
  induction l with
  | nil => rfl
  | cons i l ih => simp only [State.checkInstances, checkArgs_congr h1 h2, ih]

/-- The check depends on the driven inputs and the netlist alone, so an evaluation does not change it. -/
theorem check_congr : s.check = t.check := by
  simp only [State.check, h2, checkInstances_congr h1 h2]

end

end Sys2Proof.Machine
end

