-- ==== Sys2Proof/Laws/PerInstr.lean ====
section
/-! SUPPORT. Facts about each instruction as syntax, one lemma per constructor of Instr. -/

namespace Sys2Proof.Laws

/-- The component, the name and the arguments of an instance say all of it, and its component code chooses it. -/
def Rebuild.Statement (i : Instr) : Prop :=
  i.comp.build i.name i.args = some i ∧ Comp.ofCode? i.comp.code = some i.comp

theorem Rebuild.p (d : Name) (a b : Src) : Rebuild.Statement (.p d a b) := ⟨rfl, by rfl⟩
theorem Rebuild.not (d : Name) (a : Src) : Rebuild.Statement (.not d a) := ⟨rfl, by rfl⟩
theorem Rebuild.and (d : Name) (a b : Src) : Rebuild.Statement (.and d a b) := ⟨rfl, by rfl⟩
theorem Rebuild.or (d : Name) (a b : Src) : Rebuild.Statement (.or d a b) := ⟨rfl, by rfl⟩
theorem Rebuild.xor (d : Name) (a b : Src) : Rebuild.Statement (.xor d a b) := ⟨rfl, by rfl⟩
theorem Rebuild.not2 (d : Name) (a : Src) : Rebuild.Statement (.not2 d a) := ⟨rfl, by rfl⟩
theorem Rebuild.not3 (d : Name) (a : Src) : Rebuild.Statement (.not3 d a) := ⟨rfl, by rfl⟩
theorem Rebuild.not4 (d : Name) (a : Src) : Rebuild.Statement (.not4 d a) := ⟨rfl, by rfl⟩
theorem Rebuild.not8 (d : Name) (a : Src) : Rebuild.Statement (.not8 d a) := ⟨rfl, by rfl⟩
theorem Rebuild.not16 (d : Name) (a : Src) : Rebuild.Statement (.not16 d a) := ⟨rfl, by rfl⟩
theorem Rebuild.and2 (d : Name) (a b : Src) : Rebuild.Statement (.and2 d a b) := ⟨rfl, by rfl⟩
theorem Rebuild.and3 (d : Name) (a b : Src) : Rebuild.Statement (.and3 d a b) := ⟨rfl, by rfl⟩
theorem Rebuild.and4 (d : Name) (a b : Src) : Rebuild.Statement (.and4 d a b) := ⟨rfl, by rfl⟩
theorem Rebuild.and8 (d : Name) (a b : Src) : Rebuild.Statement (.and8 d a b) := ⟨rfl, by rfl⟩
theorem Rebuild.and16 (d : Name) (a b : Src) : Rebuild.Statement (.and16 d a b) := ⟨rfl, by rfl⟩
theorem Rebuild.or2 (d : Name) (a b : Src) : Rebuild.Statement (.or2 d a b) := ⟨rfl, by rfl⟩
theorem Rebuild.or3 (d : Name) (a b : Src) : Rebuild.Statement (.or3 d a b) := ⟨rfl, by rfl⟩
theorem Rebuild.or4 (d : Name) (a b : Src) : Rebuild.Statement (.or4 d a b) := ⟨rfl, by rfl⟩
theorem Rebuild.or8 (d : Name) (a b : Src) : Rebuild.Statement (.or8 d a b) := ⟨rfl, by rfl⟩
theorem Rebuild.or16 (d : Name) (a b : Src) : Rebuild.Statement (.or16 d a b) := ⟨rfl, by rfl⟩
theorem Rebuild.xor2 (d : Name) (a b : Src) : Rebuild.Statement (.xor2 d a b) := ⟨rfl, by rfl⟩
theorem Rebuild.xor3 (d : Name) (a b : Src) : Rebuild.Statement (.xor3 d a b) := ⟨rfl, by rfl⟩
theorem Rebuild.xor4 (d : Name) (a b : Src) : Rebuild.Statement (.xor4 d a b) := ⟨rfl, by rfl⟩
theorem Rebuild.xor8 (d : Name) (a b : Src) : Rebuild.Statement (.xor8 d a b) := ⟨rfl, by rfl⟩
theorem Rebuild.xor16 (d : Name) (a b : Src) : Rebuild.Statement (.xor16 d a b) := ⟨rfl, by rfl⟩
theorem Rebuild.fanout16 (d : Name) (a : Src) : Rebuild.Statement (.fanout16 d a) := ⟨rfl, by rfl⟩
theorem Rebuild.or8Way (d : Name) (a : Src) : Rebuild.Statement (.or8Way d a) := ⟨rfl, by rfl⟩
theorem Rebuild.mux (d : Name) (a b c : Src) : Rebuild.Statement (.mux d a b c) := ⟨rfl, by rfl⟩
theorem Rebuild.mux16 (d : Name) (a b c : Src) : Rebuild.Statement (.mux16 d a b c) := ⟨rfl, by rfl⟩
theorem Rebuild.mux4Way16 (d : Name) (a b c e f : Src) : Rebuild.Statement (.mux4Way16 d a b c e f) := ⟨rfl, by rfl⟩
theorem Rebuild.mux4Way (d : Name) (a b c e f : Src) : Rebuild.Statement (.mux4Way d a b c e f) := ⟨rfl, by rfl⟩
theorem Rebuild.mux8Way16 (d : Name) (a b c e f g h k l : Src) : Rebuild.Statement (.mux8Way16 d a b c e f g h k l) := ⟨rfl, by rfl⟩
theorem Rebuild.mux8Way (d : Name) (a b c e f g h k l : Src) : Rebuild.Statement (.mux8Way d a b c e f g h k l) := ⟨rfl, by rfl⟩
theorem Rebuild.dMux (d : Name) (a b : Src) : Rebuild.Statement (.dMux d a b) := ⟨rfl, by rfl⟩
theorem Rebuild.dMux16 (d : Name) (a b : Src) : Rebuild.Statement (.dMux16 d a b) := ⟨rfl, by rfl⟩
theorem Rebuild.dMux4Way (d : Name) (a b : Src) : Rebuild.Statement (.dMux4Way d a b) := ⟨rfl, by rfl⟩
theorem Rebuild.dMux4Way16 (d : Name) (a b : Src) : Rebuild.Statement (.dMux4Way16 d a b) := ⟨rfl, by rfl⟩
theorem Rebuild.dMux8Way (d : Name) (a b : Src) : Rebuild.Statement (.dMux8Way d a b) := ⟨rfl, by rfl⟩
theorem Rebuild.dMux8Way16 (d : Name) (a b : Src) : Rebuild.Statement (.dMux8Way16 d a b) := ⟨rfl, by rfl⟩
theorem Rebuild.halfAdder (d : Name) (a b : Src) : Rebuild.Statement (.halfAdder d a b) := ⟨rfl, by rfl⟩
theorem Rebuild.fullAdder (d : Name) (a b c : Src) : Rebuild.Statement (.fullAdder d a b c) := ⟨rfl, by rfl⟩
theorem Rebuild.add16 (d : Name) (a b : Src) : Rebuild.Statement (.add16 d a b) := ⟨rfl, by rfl⟩
theorem Rebuild.inc16 (d : Name) (a : Src) : Rebuild.Statement (.inc16 d a) := ⟨rfl, by rfl⟩
theorem Rebuild.alu (d : Name) (a b c e f g h k : Src) : Rebuild.Statement (.alu d a b c e f g h k) := ⟨rfl, by rfl⟩
theorem Rebuild.aluZero (d : Name) (a b : Src) : Rebuild.Statement (.aluZero d a b) := ⟨rfl, by rfl⟩
theorem Rebuild.aluOne (d : Name) (a b : Src) : Rebuild.Statement (.aluOne d a b) := ⟨rfl, by rfl⟩
theorem Rebuild.aluNegOne (d : Name) (a b : Src) : Rebuild.Statement (.aluNegOne d a b) := ⟨rfl, by rfl⟩
theorem Rebuild.aluX (d : Name) (a b : Src) : Rebuild.Statement (.aluX d a b) := ⟨rfl, by rfl⟩
theorem Rebuild.aluY (d : Name) (a b : Src) : Rebuild.Statement (.aluY d a b) := ⟨rfl, by rfl⟩
theorem Rebuild.aluNotX (d : Name) (a b : Src) : Rebuild.Statement (.aluNotX d a b) := ⟨rfl, by rfl⟩
theorem Rebuild.aluNotY (d : Name) (a b : Src) : Rebuild.Statement (.aluNotY d a b) := ⟨rfl, by rfl⟩
theorem Rebuild.aluNegX (d : Name) (a b : Src) : Rebuild.Statement (.aluNegX d a b) := ⟨rfl, by rfl⟩
theorem Rebuild.aluNegY (d : Name) (a b : Src) : Rebuild.Statement (.aluNegY d a b) := ⟨rfl, by rfl⟩
theorem Rebuild.aluXPlusOne (d : Name) (a b : Src) : Rebuild.Statement (.aluXPlusOne d a b) := ⟨rfl, by rfl⟩
theorem Rebuild.aluYPlusOne (d : Name) (a b : Src) : Rebuild.Statement (.aluYPlusOne d a b) := ⟨rfl, by rfl⟩
theorem Rebuild.aluXMinusOne (d : Name) (a b : Src) : Rebuild.Statement (.aluXMinusOne d a b) := ⟨rfl, by rfl⟩
theorem Rebuild.aluYMinusOne (d : Name) (a b : Src) : Rebuild.Statement (.aluYMinusOne d a b) := ⟨rfl, by rfl⟩
theorem Rebuild.aluXPlusY (d : Name) (a b : Src) : Rebuild.Statement (.aluXPlusY d a b) := ⟨rfl, by rfl⟩
theorem Rebuild.aluXMinusY (d : Name) (a b : Src) : Rebuild.Statement (.aluXMinusY d a b) := ⟨rfl, by rfl⟩
theorem Rebuild.aluYMinusX (d : Name) (a b : Src) : Rebuild.Statement (.aluYMinusX d a b) := ⟨rfl, by rfl⟩
theorem Rebuild.aluXAndY (d : Name) (a b : Src) : Rebuild.Statement (.aluXAndY d a b) := ⟨rfl, by rfl⟩
theorem Rebuild.aluXOrY (d : Name) (a b : Src) : Rebuild.Statement (.aluXOrY d a b) := ⟨rfl, by rfl⟩

end Sys2Proof.Laws
end

