-- ==== Sys2Proof/Laws/Step.lean ====
section
/-! SUPPORT. Everything a step can do, and everything an accepted netlist satisfies. -/

namespace Sys2Proof.Machine

/-- A step that answers a next state has accepted the netlist and evaluated an instance whose arguments are all driven,
or found nothing left to evaluate. -/
theorem step_cases {s t : State} (h : step s = .next t) :
    s.check = none ∧
      ((∃ i, s.nextInstance = some i ∧ exec i s = .next t) ∨ (s.nextInstance = none ∧ t = s)) := by
  cases hc : s.check with
  | some r => simp [step, hc] at h
  | none =>
    refine ⟨rfl, ?_⟩
    cases hn : s.nextInstance with
    | some i => exact .inl ⟨i, rfl, by simpa [step, hc, hn] using h⟩
    | none => exact .inr ⟨rfl, by simpa [step, hc, hn, eq_comm] using h⟩

/-- The next instance is one of the netlist, not evaluated yet, and everything it depends on has settled. -/
theorem nextInstance_spec {s : State} {i : Instr} (h : s.nextInstance = some i) :
    i ∈ s.netlist.instances ∧ s.isSettled i.name = false ∧ ∀ d ∈ dependencies i, s.isSettled d = true := by
  refine ⟨List.mem_of_find?_eq_some h, ?_⟩
  have := List.find?_some h
  simpa [ready] using this

/-- An accepted netlist is written for the core's convention, its names are distinct, its arguments are typed and it has
no feedback. -/
theorem check_eq_none {s : State} :
    s.check = none ↔ s.netlist.convention ≠ .other ∧ distinctNames (s.netlist.instances.map Instr.name) = true ∧
      s.checkInstances s.netlist.instances = none ∧ acyclic s.netlist.instances = true := by
  unfold State.check
  split
  · simp_all
  · split
    · simp_all
    · split
      · simp_all
      · split <;> simp_all

end Sys2Proof.Machine
end

