-- ==== Sys2Proof/Tests/Slice0.lean ====
section
/-! SUPPORT. Tests. Expected values come from the spec (95_test_vectors.md unless a comment says otherwise), words from the
encodings of 30_encoding.md. The last part shows for every statement with hypotheses a state and operands that meet them. -/

namespace Sys2Proof.Tests

set_option Elab.async false

open Sys2Proof Sys2Proof.Machine

/-! ### Helpers -/

/-- A Bit constant. -/
abbrev bitSrc (b : Bool) : Src := .tie (.bit b)
/-- A Bus_16 constant. -/
abbrev busSrc (v : Bus 16) : Src := .tie (.bus16 v)

/-- The outputs of one instance evaluated after reset. -/
def outputsOf (i : Instr) : Option Outputs :=
  match exec i State.reset with
  | .next t => storeGet i.name t.settled
  | _ => none

/-- Why a step is refused. -/
def refusalOf (s : State) : Option Refusal :=
  match step s with
  | .refused r => some r
  | _ => none

/-- The value on a net after one step. -/
def netAfterStep (s : State) (n : Net) : Option Value :=
  match step s with
  | .next t => (t.net n).toOption
  | _ => none

/-- The instance a byte image begins with. -/
def decoded (bs : List Byte) : Option Instr :=
  match decode bs with
  | .ok (i, _) => some i
  | .error _ => none

/-- Why bytes are no instance. -/
def decodeErrorOf (bs : List Byte) : Option DecodeError :=
  match decode bs with
  | .ok _ => none
  | .error e => some e

/-! ### WellFormed: an ill-formed term for each check -/

theorem test_wf_accepts : (Instr.mux16 1 (busSrc 1) (.net (.input 2)) (.pos (.input 3) 0)).wf = true := by decide
theorem test_wf_refuses_constant_of_another_type : (Instr.not 1 (busSrc 0)).wf = false := by decide
theorem test_wf_refuses_position_on_a_bus_port : (Instr.not16 1 (.pos (.input 2) 0)).wf = false := by decide
theorem test_wf_refuses_slice_of_another_width : (Instr.or8Way 1 (.slice (.input 2) 0 3)).wf = false := by decide
theorem test_wf_refuses_backward_slice : (Instr.or8Way 1 (.slice (.input 2) 8 1)).wf = false := by decide
theorem test_wf_refuses_slice_of_no_bus_width : (Instr.not4 1 (.slice (.input 2) 0 4)).wf = false := by decide
theorem test_wf_refuses_slice_on_a_bit_port : (Instr.not 1 (.slice (.input 2) 3 3)).wf = false := by decide
theorem test_wf_refuses_bus_of_another_length :
    (Instr.not2 1 (.assemble [.tie true, .tie true, .tie false])).wf = false := by decide
theorem test_wf_refuses_second_argument : (Instr.and 1 (bitSrc true) (busSrc 0)).wf = false := by decide

/-! ### Decode: words written out from the spec's encodings -/

/-- Zero operands, as decodeTableWord gives them. -/
def canonical (mk : Name → Src → Src → Instr) : Instr := mk 0 (busSrc 0) (busSrc 0)

/-! The tuple `(zx,nx,zy,ny,f,no)` of R50 in binary, `zx` first (R46). -/

theorem test_decode_aluZero : decodeTableWord 8 0b101010 = some (canonical .aluZero) := by decide +kernel
theorem test_decode_aluOne : decodeTableWord 8 0b111111 = some (canonical .aluOne) := by decide +kernel
theorem test_decode_aluNegOne : decodeTableWord 8 0b111010 = some (canonical .aluNegOne) := by decide +kernel
theorem test_decode_aluX : decodeTableWord 8 0b001100 = some (canonical .aluX) := by decide +kernel
theorem test_decode_aluY : decodeTableWord 8 0b110000 = some (canonical .aluY) := by decide +kernel
theorem test_decode_aluNotX : decodeTableWord 8 0b001101 = some (canonical .aluNotX) := by decide +kernel
theorem test_decode_aluNotY : decodeTableWord 8 0b110001 = some (canonical .aluNotY) := by decide +kernel
theorem test_decode_aluNegX : decodeTableWord 8 0b001111 = some (canonical .aluNegX) := by decide +kernel
theorem test_decode_aluNegY : decodeTableWord 8 0b110011 = some (canonical .aluNegY) := by decide +kernel
theorem test_decode_aluXPlusOne : decodeTableWord 8 0b011111 = some (canonical .aluXPlusOne) := by decide +kernel
theorem test_decode_aluYPlusOne : decodeTableWord 8 0b110111 = some (canonical .aluYPlusOne) := by decide +kernel
theorem test_decode_aluXMinusOne : decodeTableWord 8 0b001110 = some (canonical .aluXMinusOne) := by decide +kernel
theorem test_decode_aluYMinusOne : decodeTableWord 8 0b110010 = some (canonical .aluYMinusOne) := by decide +kernel
theorem test_decode_aluXPlusY : decodeTableWord 8 0b000010 = some (canonical .aluXPlusY) := by decide +kernel
theorem test_decode_aluXMinusY : decodeTableWord 8 0b010011 = some (canonical .aluXMinusY) := by decide +kernel
theorem test_decode_aluYMinusX : decodeTableWord 8 0b000111 = some (canonical .aluYMinusX) := by decide +kernel
theorem test_decode_aluXAndY : decodeTableWord 8 0b000000 = some (canonical .aluXAndY) := by decide +kernel
theorem test_decode_aluXOrY : decodeTableWord 8 0b010101 = some (canonical .aluXOrY) := by decide +kernel

/-- `!(x & y)`, no canonical word: the tuple `(0,0,0,0,0,1)` goes to `ALU` with its control Bits tied off. -/
theorem test_decode_word_without_a_name :
    decodeTableWord 8 0b000001 = some (.alu 0 (busSrc 0) (busSrc 0) (bitSrc false) (bitSrc false) (bitSrc false)
      (bitSrc false) (bitSrc false) (bitSrc true)) := by decide +kernel

/-! The byte image is the model's own (log entry 5): code, name, arguments. -/

theorem test_decode_gate : decoded [0x42, 0x82, 0x02, 0x00, 0x01, 0x01, 0x10, 0x09] =
    some (.and 258 (bitSrc true) (.net (.input 9))) := by decide +kernel
theorem test_decode_lifted : decoded [0x54, 0x01, 0x00, 0b10, 0x03, 0x00, 0x02, 0x04, 0x05] =
    some (.xor2 1 (.tie (.bus2 0b10#2)) (.slice (.wire 2 .out) 4 5)) := by decide +kernel
theorem test_decode_selector : decoded ([0x63, 0x01, 0x00, 0x01] ++ [0x04, 0x02, 0x00, 0x01, 0x02, 0x10, 0x03, 0x0F]) =
    some (.dMux4Way 1 (bitSrc true) (.assemble [.tie true, .pos (.input 3) 15])) := by decide +kernel
theorem test_decode_arithmetic : decoded ([0x69, 0x01, 0x00, 0x12, 0x34] ++ [0x01, 0x00, 0x07]) =
    some (.add16 1 (busSrc 0x1234) (.net (.wire 7 .out))) := by decide +kernel
theorem test_decode_alu_flag_wire : decoded ([0x41, 0x01, 0x01, 0x04, 0x07]) =
    some (.not 1 (.net (.wire 7 .ng))) := by decide +kernel
theorem test_decode_rejects_unknown_component : decodeErrorOf [0x6C, 0x00] = some (.unknownComponent 0x6C) := by
  decide +kernel
theorem test_decode_rejects_other_width : decodeErrorOf [0x45, 0x00, 0x02, 0x10, 0x01, 0x00] =
    some .widthMismatch := by decide +kernel
theorem test_decode_rejects_wide_constant : decodeErrorOf [0x45, 0x00, 0x00, 0x04] = some (.constantTooWide 4) := by
  decide +kernel
theorem test_decode_rejects_argument_form : decodeErrorOf [0x41, 0x00, 0x05] = some (.unknownArgumentForm 5) := by
  decide +kernel
theorem test_decode_rejects_port : decodeErrorOf [0x41, 0x00, 0x01, 0x0D, 0x00] = some (.unknownPort 0x0D) := by
  decide +kernel
theorem test_decode_rejects_position : decodeErrorOf [0x41, 0x00, 0x02, 0x10, 0x01, 0x10] =
    some (.noSuchPosition 0x10) := by decide +kernel
theorem test_decode_rejects_truncated : decodeErrorOf [0x41, 0x80] = some .truncated := by decide +kernel
theorem test_a_row_without_bits_chooses_nothing : decodeTableWord 0 0 = none := by decide +kernel

/-- The control word in its own six bits (R46): `1` of R50. -/
theorem test_decode_six_bits : decodeTableWord 6 0b111111 = some (canonical .aluOne) := by decide +kernel
/-- Selector bits alone choose no component (log entry 6): `1` is the control word 0x01. -/
theorem test_decode_selector_bits : decodeTableWord 1 1 = decodeTableWord 8 0b000001 := by decide +kernel
/-- Names are not bounded (R144): instance 70000 = 112 + 34 * 128 + 4 * 128 * 128. -/
theorem test_decode_long_name : decoded [0x41, 0xF0, 0xA2, 0x04, 0x00, 0x01] = some (.not 70000 (bitSrc true)) := by
  decide +kernel

/-! ### One step per instruction -/

theorem test_p_01 : outputsOf (.p 1 (bitSrc false) (bitSrc true)) = some [(.out, .bit true)] := by decide +kernel
theorem test_p_11 : outputsOf (.p 1 (bitSrc true) (bitSrc true)) = some [(.out, .bit false)] := by decide +kernel
theorem test_and_10 : outputsOf (.and 1 (bitSrc true) (bitSrc false)) = some [(.out, .bit false)] := by decide +kernel
theorem test_and_11 : outputsOf (.and 1 (bitSrc true) (bitSrc true)) = some [(.out, .bit true)] := by decide +kernel
theorem test_or_00 : outputsOf (.or 1 (bitSrc false) (bitSrc false)) = some [(.out, .bit false)] := by decide +kernel
theorem test_or_01 : outputsOf (.or 1 (bitSrc false) (bitSrc true)) = some [(.out, .bit true)] := by decide +kernel
theorem test_xor_10 : outputsOf (.xor 1 (bitSrc true) (bitSrc false)) = some [(.out, .bit true)] := by decide +kernel
theorem test_xor_11 : outputsOf (.xor 1 (bitSrc true) (bitSrc true)) = some [(.out, .bit false)] := by decide +kernel
theorem test_not_0 : outputsOf (.not 1 (bitSrc false)) = some [(.out, .bit true)] := by decide +kernel
theorem test_not_1 : outputsOf (.not 1 (bitSrc true)) = some [(.out, .bit false)] := by decide +kernel
theorem test_not2 : outputsOf (.not2 1 (.tie (.bus2 0b10#2))) = some [(.out, .bus2 0b01#2)] := by decide +kernel
theorem test_and2 : outputsOf (.and2 1 (.tie (.bus2 0b11#2)) (.tie (.bus2 0b10#2))) = some [(.out, .bus2 0b10#2)] := by decide +kernel
theorem test_or2 : outputsOf (.or2 1 (.tie (.bus2 0b11#2)) (.tie (.bus2 0b10#2))) = some [(.out, .bus2 0b11#2)] := by decide +kernel
theorem test_xor2 : outputsOf (.xor2 1 (.tie (.bus2 0b11#2)) (.tie (.bus2 0b10#2))) = some [(.out, .bus2 0b01#2)] := by decide +kernel
theorem test_not3 : outputsOf (.not3 1 (.tie (.bus3 0b101#3))) = some [(.out, .bus3 0b010#3)] := by decide +kernel
theorem test_and3 : outputsOf (.and3 1 (.tie (.bus3 0b110#3)) (.tie (.bus3 0b101#3))) = some [(.out, .bus3 0b100#3)] := by decide +kernel
theorem test_or3 : outputsOf (.or3 1 (.tie (.bus3 0b110#3)) (.tie (.bus3 0b101#3))) = some [(.out, .bus3 0b111#3)] := by decide +kernel
theorem test_xor3 : outputsOf (.xor3 1 (.tie (.bus3 0b110#3)) (.tie (.bus3 0b101#3))) = some [(.out, .bus3 0b011#3)] := by decide +kernel
theorem test_not4 : outputsOf (.not4 1 (.tie (.bus4 0b1010#4))) = some [(.out, .bus4 0b0101#4)] := by decide +kernel
theorem test_and4 : outputsOf (.and4 1 (.tie (.bus4 0b1100#4)) (.tie (.bus4 0b1010#4))) = some [(.out, .bus4 0b1000#4)] := by decide +kernel
theorem test_or4 : outputsOf (.or4 1 (.tie (.bus4 0b1100#4)) (.tie (.bus4 0b1010#4))) = some [(.out, .bus4 0b1110#4)] := by decide +kernel
theorem test_xor4 : outputsOf (.xor4 1 (.tie (.bus4 0b1100#4)) (.tie (.bus4 0b1010#4))) = some [(.out, .bus4 0b0110#4)] := by decide +kernel
theorem test_not8 : outputsOf (.not8 1 (.tie (.bus8 0b10101010#8))) = some [(.out, .bus8 0b01010101#8)] := by decide +kernel
theorem test_and8 : outputsOf (.and8 1 (.tie (.bus8 0b11001100#8)) (.tie (.bus8 0b10101010#8))) = some [(.out, .bus8 0b10001000#8)] := by decide +kernel
theorem test_or8 : outputsOf (.or8 1 (.tie (.bus8 0b11001100#8)) (.tie (.bus8 0b10101010#8))) = some [(.out, .bus8 0b11101110#8)] := by decide +kernel
theorem test_xor8 : outputsOf (.xor8 1 (.tie (.bus8 0b11001100#8)) (.tie (.bus8 0b10101010#8))) = some [(.out, .bus8 0b01100110#8)] := by decide +kernel
theorem test_not16 : outputsOf (.not16 1 (busSrc 0x1234)) = some [(.out, .bus16 0xEDCB#16)] := by decide +kernel
theorem test_and16 : outputsOf (.and16 1 (busSrc 0xFF00) (busSrc 0x0FF0)) = some [(.out, .bus16 0x0F00#16)] := by decide +kernel
theorem test_or16 : outputsOf (.or16 1 (busSrc 0xFF00) (busSrc 0x0FF0)) = some [(.out, .bus16 0xFFF0#16)] := by decide +kernel
theorem test_xor16 : outputsOf (.xor16 1 (busSrc 0xFF00) (busSrc 0x0FF0)) = some [(.out, .bus16 0xF0F0#16)] := by decide +kernel
theorem test_fanout16_1 : outputsOf (.fanout16 1 (bitSrc true)) = some [(.out, .bus16 0xFFFF#16)] := by decide +kernel
theorem test_fanout16_0 : outputsOf (.fanout16 1 (bitSrc false)) = some [(.out, .bus16 0x0000#16)] := by decide +kernel
theorem test_or8Way_last : outputsOf (.or8Way 1 (.tie (.bus8 0b00000001#8))) = some [(.out, .bit true)] := by decide +kernel
theorem test_or8Way_zero : outputsOf (.or8Way 1 (.tie (.bus8 0b00000000#8))) = some [(.out, .bit false)] := by decide +kernel
theorem test_mux_011 : outputsOf (.mux 1 (bitSrc false) (bitSrc true) (bitSrc true)) = some [(.out, .bit true)] := by decide +kernel
theorem test_mux_010 : outputsOf (.mux 1 (bitSrc false) (bitSrc true) (bitSrc false)) = some [(.out, .bit false)] := by decide +kernel
theorem test_dMux_10 : outputsOf (.dMux 1 (bitSrc true) (bitSrc false)) = some [(.a, .bit true), (.b, .bit false)] := by decide +kernel
theorem test_dMux_11 : outputsOf (.dMux 1 (bitSrc true) (bitSrc true)) = some [(.a, .bit false), (.b, .bit true)] := by decide +kernel
theorem test_mux16_0 : outputsOf (.mux16 1 (busSrc 0x1234) (busSrc 0xABCD) (bitSrc false)) = some [(.out, .bus16 0x1234#16)] := by decide +kernel
theorem test_mux16_1 : outputsOf (.mux16 1 (busSrc 0x1234) (busSrc 0xABCD) (bitSrc true)) = some [(.out, .bus16 0xABCD#16)] := by decide +kernel
theorem test_dMux16_0 : outputsOf (.dMux16 1 (busSrc 0xBEEF) (bitSrc false)) = some [(.a, .bus16 0xBEEF#16), (.b, .bus16 0x0000#16)] := by decide +kernel
theorem test_dMux16_1 : outputsOf (.dMux16 1 (busSrc 0xBEEF) (bitSrc true)) = some [(.a, .bus16 0x0000#16), (.b, .bus16 0xBEEF#16)] := by decide +kernel
theorem test_mux4Way16_01 : outputsOf (.mux4Way16 1 (busSrc 0x000A) (busSrc 0x000B) (busSrc 0x000C) (busSrc 0x000D)
    (.tie (.bus2 0b01#2))) = some [(.out, .bus16 0x000B#16)] := by decide +kernel
theorem test_mux4Way16_10 : outputsOf (.mux4Way16 1 (busSrc 0x000A) (busSrc 0x000B) (busSrc 0x000C) (busSrc 0x000D)
    (.tie (.bus2 0b10#2))) = some [(.out, .bus16 0x000C#16)] := by decide +kernel
theorem test_mux8Way16_011 : outputsOf (.mux8Way16 1 (busSrc 0x000A) (busSrc 0x000B) (busSrc 0x000C) (busSrc 0x000D)
    (busSrc 0x000E) (busSrc 0x000F) (busSrc 0x0010) (busSrc 0x0011) (.tie (.bus3 0b011#3))) = some [(.out, .bus16 0x000D#16)] := by decide +kernel
theorem test_mux8Way16_100 : outputsOf (.mux8Way16 1 (busSrc 0x000A) (busSrc 0x000B) (busSrc 0x000C) (busSrc 0x000D)
    (busSrc 0x000E) (busSrc 0x000F) (busSrc 0x0010) (busSrc 0x0011) (.tie (.bus3 0b100#3))) = some [(.out, .bus16 0x000E#16)] := by decide +kernel
theorem test_mux4Way_only_b : outputsOf (.mux4Way 1 (bitSrc false) (bitSrc true) (bitSrc false) (bitSrc false)
    (.tie (.bus2 0b01#2))) = some [(.out, .bit true)] := by decide +kernel
theorem test_mux4Way_not_c : outputsOf (.mux4Way 1 (bitSrc true) (bitSrc true) (bitSrc false) (bitSrc true)
    (.tie (.bus2 0b10#2))) = some [(.out, .bit false)] := by decide +kernel
theorem test_mux8Way_only_g : outputsOf (.mux8Way 1 (bitSrc false) (bitSrc false) (bitSrc false) (bitSrc false)
    (bitSrc false) (bitSrc false) (bitSrc true) (bitSrc false) (.tie (.bus3 0b110#3))) = some [(.out, .bit true)] := by decide +kernel
theorem test_mux8Way_d_not_selected : outputsOf (.mux8Way 1 (bitSrc false) (bitSrc false) (bitSrc false) (bitSrc true)
    (bitSrc false) (bitSrc false) (bitSrc false) (bitSrc false) (.tie (.bus3 0b110#3))) = some [(.out, .bit false)] := by decide +kernel
theorem test_dMux4Way_10 : outputsOf (.dMux4Way 1 (bitSrc true) (.tie (.bus2 0b10#2))) = some [
    (.a, .bit false), (.b, .bit false), (.c, .bit true), (.d, .bit false)] := by decide +kernel
theorem test_dMux4Way_zero : outputsOf (.dMux4Way 1 (bitSrc false) (.tie (.bus2 0b01#2))) = some [
    (.a, .bit false), (.b, .bit false), (.c, .bit false), (.d, .bit false)] := by decide +kernel
theorem test_dMux4Way16_01 : outputsOf (.dMux4Way16 1 (busSrc 0xBEEF) (.tie (.bus2 0b01#2))) = some [
    (.a, .bus16 0x0000#16), (.b, .bus16 0xBEEF#16), (.c, .bus16 0x0000#16), (.d, .bus16 0x0000#16)] := by decide +kernel
theorem test_dMux8Way_110 : outputsOf (.dMux8Way 1 (bitSrc true) (.tie (.bus3 0b110#3))) = some [
    (.a, .bit false), (.b, .bit false), (.c, .bit false), (.d, .bit false), (.e, .bit false), (.f, .bit false),
    (.g, .bit true), (.h, .bit false)] := by decide +kernel
theorem test_dMux8Way_011 : outputsOf (.dMux8Way 1 (bitSrc true) (.tie (.bus3 0b011#3))) = some [
    (.a, .bit false), (.b, .bit false), (.c, .bit false), (.d, .bit true), (.e, .bit false), (.f, .bit false),
    (.g, .bit false), (.h, .bit false)] := by decide +kernel
theorem test_dMux8Way16_100 : outputsOf (.dMux8Way16 1 (busSrc 0xBEEF) (.tie (.bus3 0b100#3))) = some [
    (.a, .bus16 0x0000#16), (.b, .bus16 0x0000#16), (.c, .bus16 0x0000#16), (.d, .bus16 0x0000#16),
    (.e, .bus16 0xBEEF#16), (.f, .bus16 0x0000#16), (.g, .bus16 0x0000#16), (.h, .bus16 0x0000#16)] := by decide +kernel
theorem test_halfAdder_11 : outputsOf (.halfAdder 1 (bitSrc true) (bitSrc true)) = some [(.sum, .bit false), (.carry, .bit true)] := by decide +kernel
theorem test_halfAdder_01 : outputsOf (.halfAdder 1 (bitSrc false) (bitSrc true)) = some [(.sum, .bit true), (.carry, .bit false)] := by decide +kernel
theorem test_fullAdder_101 : outputsOf (.fullAdder 1 (bitSrc true) (bitSrc false) (bitSrc true)) = some [(.sum, .bit false), (.carry, .bit true)] := by decide +kernel
theorem test_fullAdder_111 : outputsOf (.fullAdder 1 (bitSrc true) (bitSrc true) (bitSrc true)) = some [(.sum, .bit true), (.carry, .bit true)] := by decide +kernel
theorem test_add16_ripple : outputsOf (.add16 1 (busSrc 0x0001) (busSrc 0xFFFF)) = some [(.out, .bus16 0x0000#16)] := by decide +kernel
theorem test_add16_signed_overflow : outputsOf (.add16 1 (busSrc 0x8000) (busSrc 0xFFFF)) = some [(.out, .bus16 0x7FFF#16)] := by decide +kernel
theorem test_inc16_carry : outputsOf (.inc16 1 (busSrc 0x00FF)) = some [(.out, .bus16 0x0100#16)] := by decide +kernel
theorem test_inc16_wrap : outputsOf (.inc16 1 (busSrc 0xFFFF)) = some [(.out, .bus16 0x0000#16)] := by decide +kernel
theorem test_alu_word_23_at_8000_7FFF : outputsOf (.alu 1 (busSrc 0x8000) (busSrc 0x7FFF)
    (bitSrc true) (bitSrc false) (bitSrc false) (bitSrc false) (bitSrc true) (bitSrc true)) = some [(.out, .bus16 0x8000#16), (.zr, .bit false), (.ng, .bit true)] := by decide +kernel
theorem test_alu_word_06_at_8000_7FFF : outputsOf (.alu 1 (busSrc 0x8000) (busSrc 0x7FFF)
    (bitSrc false) (bitSrc false) (bitSrc false) (bitSrc true) (bitSrc true) (bitSrc false)) = some [(.out, .bus16 0x0000#16), (.zr, .bit true), (.ng, .bit false)] := by decide +kernel
theorem test_aluZero_at_0011_0003 : outputsOf (.aluZero 1 (busSrc 0x0011) (busSrc 0x0003)) = some [(.out, .bus16 0x0000#16), (.zr, .bit true), (.ng, .bit false)] := by decide +kernel
theorem test_aluZero_at_8000_0001 : outputsOf (.aluZero 1 (busSrc 0x8000) (busSrc 0x0001)) = some [(.out, .bus16 0x0000#16), (.zr, .bit true), (.ng, .bit false)] := by decide +kernel
theorem test_aluOne_at_0011_0003 : outputsOf (.aluOne 1 (busSrc 0x0011) (busSrc 0x0003)) = some [(.out, .bus16 0x0001#16), (.zr, .bit false), (.ng, .bit false)] := by decide +kernel
theorem test_aluOne_at_8000_0001 : outputsOf (.aluOne 1 (busSrc 0x8000) (busSrc 0x0001)) = some [(.out, .bus16 0x0001#16), (.zr, .bit false), (.ng, .bit false)] := by decide +kernel
theorem test_aluNegOne_at_0011_0003 : outputsOf (.aluNegOne 1 (busSrc 0x0011) (busSrc 0x0003)) = some [(.out, .bus16 0xFFFF#16), (.zr, .bit false), (.ng, .bit true)] := by decide +kernel
theorem test_aluNegOne_at_8000_0001 : outputsOf (.aluNegOne 1 (busSrc 0x8000) (busSrc 0x0001)) = some [(.out, .bus16 0xFFFF#16), (.zr, .bit false), (.ng, .bit true)] := by decide +kernel
theorem test_aluX_at_0011_0003 : outputsOf (.aluX 1 (busSrc 0x0011) (busSrc 0x0003)) = some [(.out, .bus16 0x0011#16), (.zr, .bit false), (.ng, .bit false)] := by decide +kernel
theorem test_aluX_at_8000_0001 : outputsOf (.aluX 1 (busSrc 0x8000) (busSrc 0x0001)) = some [(.out, .bus16 0x8000#16), (.zr, .bit false), (.ng, .bit true)] := by decide +kernel
theorem test_aluY_at_0011_0003 : outputsOf (.aluY 1 (busSrc 0x0011) (busSrc 0x0003)) = some [(.out, .bus16 0x0003#16), (.zr, .bit false), (.ng, .bit false)] := by decide +kernel
theorem test_aluY_at_8000_0001 : outputsOf (.aluY 1 (busSrc 0x8000) (busSrc 0x0001)) = some [(.out, .bus16 0x0001#16), (.zr, .bit false), (.ng, .bit false)] := by decide +kernel
theorem test_aluNotX_at_0011_0003 : outputsOf (.aluNotX 1 (busSrc 0x0011) (busSrc 0x0003)) = some [(.out, .bus16 0xFFEE#16), (.zr, .bit false), (.ng, .bit true)] := by decide +kernel
theorem test_aluNotX_at_8000_0001 : outputsOf (.aluNotX 1 (busSrc 0x8000) (busSrc 0x0001)) = some [(.out, .bus16 0x7FFF#16), (.zr, .bit false), (.ng, .bit false)] := by decide +kernel
theorem test_aluNotY_at_0011_0003 : outputsOf (.aluNotY 1 (busSrc 0x0011) (busSrc 0x0003)) = some [(.out, .bus16 0xFFFC#16), (.zr, .bit false), (.ng, .bit true)] := by decide +kernel
theorem test_aluNotY_at_8000_0001 : outputsOf (.aluNotY 1 (busSrc 0x8000) (busSrc 0x0001)) = some [(.out, .bus16 0xFFFE#16), (.zr, .bit false), (.ng, .bit true)] := by decide +kernel
theorem test_aluNegX_at_0011_0003 : outputsOf (.aluNegX 1 (busSrc 0x0011) (busSrc 0x0003)) = some [(.out, .bus16 0xFFEF#16), (.zr, .bit false), (.ng, .bit true)] := by decide +kernel
theorem test_aluNegX_at_8000_0001 : outputsOf (.aluNegX 1 (busSrc 0x8000) (busSrc 0x0001)) = some [(.out, .bus16 0x8000#16), (.zr, .bit false), (.ng, .bit true)] := by decide +kernel
theorem test_aluNegY_at_0011_0003 : outputsOf (.aluNegY 1 (busSrc 0x0011) (busSrc 0x0003)) = some [(.out, .bus16 0xFFFD#16), (.zr, .bit false), (.ng, .bit true)] := by decide +kernel
theorem test_aluNegY_at_8000_0001 : outputsOf (.aluNegY 1 (busSrc 0x8000) (busSrc 0x0001)) = some [(.out, .bus16 0xFFFF#16), (.zr, .bit false), (.ng, .bit true)] := by decide +kernel
theorem test_aluXPlusOne_at_0011_0003 : outputsOf (.aluXPlusOne 1 (busSrc 0x0011) (busSrc 0x0003)) = some [(.out, .bus16 0x0012#16), (.zr, .bit false), (.ng, .bit false)] := by decide +kernel
theorem test_aluXPlusOne_at_8000_0001 : outputsOf (.aluXPlusOne 1 (busSrc 0x8000) (busSrc 0x0001)) = some [(.out, .bus16 0x8001#16), (.zr, .bit false), (.ng, .bit true)] := by decide +kernel
theorem test_aluYPlusOne_at_0011_0003 : outputsOf (.aluYPlusOne 1 (busSrc 0x0011) (busSrc 0x0003)) = some [(.out, .bus16 0x0004#16), (.zr, .bit false), (.ng, .bit false)] := by decide +kernel
theorem test_aluYPlusOne_at_8000_0001 : outputsOf (.aluYPlusOne 1 (busSrc 0x8000) (busSrc 0x0001)) = some [(.out, .bus16 0x0002#16), (.zr, .bit false), (.ng, .bit false)] := by decide +kernel
theorem test_aluXMinusOne_at_0011_0003 : outputsOf (.aluXMinusOne 1 (busSrc 0x0011) (busSrc 0x0003)) = some [(.out, .bus16 0x0010#16), (.zr, .bit false), (.ng, .bit false)] := by decide +kernel
theorem test_aluXMinusOne_at_8000_0001 : outputsOf (.aluXMinusOne 1 (busSrc 0x8000) (busSrc 0x0001)) = some [(.out, .bus16 0x7FFF#16), (.zr, .bit false), (.ng, .bit false)] := by decide +kernel
theorem test_aluYMinusOne_at_0011_0003 : outputsOf (.aluYMinusOne 1 (busSrc 0x0011) (busSrc 0x0003)) = some [(.out, .bus16 0x0002#16), (.zr, .bit false), (.ng, .bit false)] := by decide +kernel
theorem test_aluYMinusOne_at_8000_0001 : outputsOf (.aluYMinusOne 1 (busSrc 0x8000) (busSrc 0x0001)) = some [(.out, .bus16 0x0000#16), (.zr, .bit true), (.ng, .bit false)] := by decide +kernel
theorem test_aluXPlusY_at_0011_0003 : outputsOf (.aluXPlusY 1 (busSrc 0x0011) (busSrc 0x0003)) = some [(.out, .bus16 0x0014#16), (.zr, .bit false), (.ng, .bit false)] := by decide +kernel
theorem test_aluXPlusY_at_8000_0001 : outputsOf (.aluXPlusY 1 (busSrc 0x8000) (busSrc 0x0001)) = some [(.out, .bus16 0x8001#16), (.zr, .bit false), (.ng, .bit true)] := by decide +kernel
theorem test_aluXMinusY_at_0011_0003 : outputsOf (.aluXMinusY 1 (busSrc 0x0011) (busSrc 0x0003)) = some [(.out, .bus16 0x000E#16), (.zr, .bit false), (.ng, .bit false)] := by decide +kernel
theorem test_aluXMinusY_at_8000_0001 : outputsOf (.aluXMinusY 1 (busSrc 0x8000) (busSrc 0x0001)) = some [(.out, .bus16 0x7FFF#16), (.zr, .bit false), (.ng, .bit false)] := by decide +kernel
theorem test_aluYMinusX_at_0011_0003 : outputsOf (.aluYMinusX 1 (busSrc 0x0011) (busSrc 0x0003)) = some [(.out, .bus16 0xFFF2#16), (.zr, .bit false), (.ng, .bit true)] := by decide +kernel
theorem test_aluYMinusX_at_8000_0001 : outputsOf (.aluYMinusX 1 (busSrc 0x8000) (busSrc 0x0001)) = some [(.out, .bus16 0x8001#16), (.zr, .bit false), (.ng, .bit true)] := by decide +kernel
theorem test_aluXAndY_at_0011_0003 : outputsOf (.aluXAndY 1 (busSrc 0x0011) (busSrc 0x0003)) = some [(.out, .bus16 0x0001#16), (.zr, .bit false), (.ng, .bit false)] := by decide +kernel
theorem test_aluXAndY_at_8000_0001 : outputsOf (.aluXAndY 1 (busSrc 0x8000) (busSrc 0x0001)) = some [(.out, .bus16 0x0000#16), (.zr, .bit true), (.ng, .bit false)] := by decide +kernel
theorem test_aluXOrY_at_0011_0003 : outputsOf (.aluXOrY 1 (busSrc 0x0011) (busSrc 0x0003)) = some [(.out, .bus16 0x0013#16), (.zr, .bit false), (.ng, .bit false)] := by decide +kernel
theorem test_aluXOrY_at_8000_0001 : outputsOf (.aluXOrY 1 (busSrc 0x8000) (busSrc 0x0001)) = some [(.out, .bus16 0x8001#16), (.zr, .bit false), (.ng, .bit true)] := by decide +kernel

/-! ### Netlists: what is accepted, evaluated next and refused -/

/-- 95_test_vectors.md section 3.1, signed maximum, with `x` = 0xFFFD and `y` = 0x0002; listed last line first (R39). -/
def maximum : State :=
  ((State.reset.build
    [.mux16 2 (.net (.input 10)) (.net (.input 11)) (.net (.wire 1 .ng)),
     .alu 1 (.net (.input 10)) (.net (.input 11)) (bitSrc false) (bitSrc true) (bitSrc false) (bitSrc false)
       (bitSrc true) (bitSrc true)]).drive 10 (.bus16 0xFFFD)).drive 11 (.bus16 0x0002)

theorem test_maximum_is_accepted : maximum.check = none := by decide +kernel
theorem test_maximum_evaluates_the_alu_first : netAfterStep maximum (.wire 1 .ng) = some (.bit true) := by
  decide +kernel
theorem test_maximum_then_selects : netAfterStep
    (maximum.settle 1 [(.out, .bus16 0xFFFB), (.zr, .bit false), (.ng, .bit true)]) (.wire 2 .out) =
      some (.bus16 0x0002) := by decide +kernel
/-- One instance with the input ports 10, a Bus_16, and 11, a Bit. -/
def withInstance (i : Instr) : State :=
  ((State.reset.build [i]).drive 10 (.bus16 0x8001)).drive 11 (.bit true)

/-- 20_memory.md R29: index 0 is the most significant position of 0x8001, index 1 is 0. -/
theorem test_position_zero_is_most_significant :
    netAfterStep (withInstance (.and 1 (.pos (.input 10) 0) (.pos (.input 10) 15))) (.wire 1 .out) =
      some (.bit true) := by decide +kernel
theorem test_position_one : netAfterStep (withInstance (.not 1 (.pos (.input 10) 1))) (.wire 1 .out) =
    some (.bit true) := by decide +kernel
/-- 20_memory.md R31: positions 0 to 7 are the more significant half. -/
theorem test_high_half : netAfterStep (withInstance (.not8 1 (.slice (.input 10) 0 7))) (.wire 1 .out) =
    some (.bus8 0x7F) := by decide +kernel
theorem test_assembled_selector : netAfterStep
    (withInstance (.dMux4Way 1 (.net (.input 11)) (.assemble [.tie true, .net (.input 11)]))) (.wire 1 .d) =
      some (.bit true) := by decide +kernel

theorem test_refuses_undriven_input : refusalOf (withInstance (.not 1 (.net (.input 12)))) = some .undrivenInput := by
  decide +kernel
theorem test_refuses_missing_instance :
    refusalOf (withInstance (.not 1 (.net (.wire 5 .out)))) = some .undrivenInput := by decide +kernel
theorem test_refuses_missing_port : refusalOf
    ((State.reset.build [.not 1 (bitSrc true), .not 2 (.net (.wire 1 .carry))])) = some .undrivenInput := by
  decide +kernel
theorem test_refuses_other_width : refusalOf (withInstance (.not 1 (.net (.input 10)))) = some .widthMismatch := by
  decide +kernel
theorem test_refuses_position_of_a_bit : refusalOf (withInstance (.not 1 (.pos (.input 11) 0))) =
    some .noSuchPosition := by decide +kernel
theorem test_refuses_slice_outside : refusalOf
    (State.reset.build [.not8 1 (.tie (.bus8 1)), .not4 2 (.slice (.wire 1 .out) 6 9)]) = some .noSuchPosition := by
  decide +kernel
theorem test_refuses_self_loop : refusalOf (withInstance (.not 1 (.net (.wire 1 .out)))) = some .cycle := by
  decide +kernel
theorem test_refuses_cycle_of_two : refusalOf
    (State.reset.build [.not 1 (.net (.wire 2 .out)), .not 2 (.net (.wire 1 .out))]) = some .cycle := by
  decide +kernel
/-- Dependence is counted by whole instances (log entry 25), though position 0 of the output depends on position 0 alone. -/
theorem test_refuses_positions_fed_back :
    refusalOf (withInstance (.not2 1 (.assemble [.pos (.wire 1 .out) 1, .tie true]))) = some .cycle := by decide +kernel
/-- One Bit at several positions of a port is wiring (log entry 24). -/
theorem test_one_bit_at_two_positions : netAfterStep (withInstance (.not2 1 (.assemble [.net (.input 11), .net (.input 11)])))
    (.wire 1 .out) = some (.bus2 0b00#2) := by decide +kernel
theorem test_refuses_two_of_one_name : refusalOf (State.reset.build [.not 1 (bitSrc true), .not 1 (bitSrc false)]) =
    some .duplicateName := by decide +kernel
theorem test_refuses_other_convention :
    refusalOf { State.reset with netlist := { convention := .other, instances := [] } } =
      some .otherSelectorConvention := by decide +kernel

/-- A table word runs as the next instance: the control word `1` gives 0x0001. -/
theorem test_fetch_word_runs : netAfterStep (State.reset.withFetchWord 8 0b111111) (.wire 0 .out) =
    some (.bus16 0x0001) := by decide +kernel
/-- After reset there is no netlist, and a step changes nothing. -/
theorem test_reset_idles : step State.reset = .next State.reset := rfl

/-! ### Witnesses: the hypotheses of each statement are met together -/

theorem reset_contract : Contract State.reset.prim := by decide

/-- A Bit argument that reads. -/
theorem reads_bit (b : Bool) : State.reset.readBit (bitSrc b) = .ok b := rfl
/-- A Bus_16 argument that reads. -/
theorem reads_bus16 (v : Bus 16) : State.reset.readBus16 (busSrc v) = .ok v := rfl

theorem witness_PrimitiveIsNand : State.reset.readBit (bitSrc true) = .ok true ∧
    State.reset.readBit (bitSrc false) = .ok false ∧ Contract State.reset.prim :=
  ⟨rfl, rfl, reset_contract⟩

theorem witness_AndIsItsDefiningIdentity : State.reset.readBit (bitSrc true) = .ok true ∧
    State.reset.readBit (bitSrc false) = .ok false ∧ Contract State.reset.prim :=
  ⟨rfl, rfl, reset_contract⟩

theorem witness_OrIsItsDefiningIdentity : State.reset.readBit (bitSrc true) = .ok true ∧
    State.reset.readBit (bitSrc false) = .ok false ∧ Contract State.reset.prim :=
  ⟨rfl, rfl, reset_contract⟩

theorem witness_XorIsItsDefiningIdentity : State.reset.readBit (bitSrc true) = .ok true ∧
    State.reset.readBit (bitSrc false) = .ok false ∧ Contract State.reset.prim :=
  ⟨rfl, rfl, reset_contract⟩

theorem witness_NotIsItsDefiningIdentity : State.reset.readBit (bitSrc true) = .ok true ∧ Contract State.reset.prim :=
  ⟨rfl, reset_contract⟩

theorem witness_LiftedNotAtEveryWidth : State.reset.readBus2 (.tie (.bus2 0b11#2)) = .ok 0b11#2 ∧
    State.reset.readBus3 (.tie (.bus3 0b101#3)) = .ok 0b101#3 ∧
    State.reset.readBus4 (.tie (.bus4 0b1001#4)) = .ok 0b1001#4 ∧
    State.reset.readBus8 (.tie (.bus8 0x80#8)) = .ok 0x80#8 ∧
    State.reset.readBus16 (busSrc 0x8001) = .ok 0x8001#16 ∧ Contract State.reset.prim :=
  ⟨rfl, rfl, rfl, rfl, rfl, reset_contract⟩

theorem witness_LiftedAndAtEveryWidth : State.reset.readBus2 (.tie (.bus2 0b11#2)) = .ok 0b11#2 ∧
    State.reset.readBus3 (.tie (.bus3 0b101#3)) = .ok 0b101#3 ∧
    State.reset.readBus4 (.tie (.bus4 0b1001#4)) = .ok 0b1001#4 ∧
    State.reset.readBus8 (.tie (.bus8 0x80#8)) = .ok 0x80#8 ∧
    State.reset.readBus16 (busSrc 0x8001) = .ok 0x8001#16 ∧ Contract State.reset.prim :=
  ⟨rfl, rfl, rfl, rfl, rfl, reset_contract⟩

theorem witness_LiftedOrAtEveryWidth : State.reset.readBus2 (.tie (.bus2 0b11#2)) = .ok 0b11#2 ∧
    State.reset.readBus3 (.tie (.bus3 0b101#3)) = .ok 0b101#3 ∧
    State.reset.readBus4 (.tie (.bus4 0b1001#4)) = .ok 0b1001#4 ∧
    State.reset.readBus8 (.tie (.bus8 0x80#8)) = .ok 0x80#8 ∧
    State.reset.readBus16 (busSrc 0x8001) = .ok 0x8001#16 ∧ Contract State.reset.prim :=
  ⟨rfl, rfl, rfl, rfl, rfl, reset_contract⟩

theorem witness_LiftedXorAtEveryWidth : State.reset.readBus2 (.tie (.bus2 0b11#2)) = .ok 0b11#2 ∧
    State.reset.readBus3 (.tie (.bus3 0b101#3)) = .ok 0b101#3 ∧
    State.reset.readBus4 (.tie (.bus4 0b1001#4)) = .ok 0b1001#4 ∧
    State.reset.readBus8 (.tie (.bus8 0x80#8)) = .ok 0x80#8 ∧
    State.reset.readBus16 (busSrc 0x8001) = .ok 0x8001#16 ∧ Contract State.reset.prim :=
  ⟨rfl, rfl, rfl, rfl, rfl, reset_contract⟩

theorem witness_LiftedGatesSatisfyTheSourceProperties : Contract Prim.nand := by decide

theorem witness_FanoutFillsEveryPosition : State.reset.readBit (bitSrc true) = .ok true := rfl

theorem witness_ReductionFoldsAllEightPositions :
    State.reset.readBus8 (.tie (.bus8 0x01#8)) = .ok 0x01#8 ∧ Contract State.reset.prim := ⟨rfl, reset_contract⟩

theorem witness_TwoWaySelectorsOnBits : State.reset.readBit (bitSrc true) = .ok true ∧
    State.reset.readBit (bitSrc false) = .ok false ∧ Contract State.reset.prim := ⟨rfl, rfl, reset_contract⟩

theorem witness_TwoWaySelectorsOnBuses : State.reset.readBus16 (busSrc 0x1234) = .ok 0x1234#16 ∧
    State.reset.readBus16 (busSrc 0xABCD) = .ok 0xABCD#16 ∧ State.reset.readBit (bitSrc true) = .ok true ∧
    Contract State.reset.prim := ⟨rfl, rfl, rfl, reset_contract⟩

/-- The selector's boundary values 00 and 11, and both kinds of data. -/
theorem witness_FourWayMultiplexersSelectByNumber : State.reset.readBus16 (busSrc 0x000A) = .ok 0x000A#16 ∧
    State.reset.readBit (bitSrc true) = .ok true ∧ State.reset.readBus2 (.tie (.bus2 0#2)) = .ok 0#2 ∧
    State.reset.readBus2 (.tie (.bus2 3#2)) = .ok 3#2 ∧ Contract State.reset.prim :=
  ⟨rfl, rfl, rfl, rfl, reset_contract⟩

theorem witness_FourWayDemultiplexersRouteByNumber : State.reset.readBit (bitSrc true) = .ok true ∧
    State.reset.readBus16 (busSrc 0xBEEF) = .ok 0xBEEF#16 ∧ State.reset.readBus2 (.tie (.bus2 0#2)) = .ok 0#2 ∧
    State.reset.readBus2 (.tie (.bus2 3#2)) = .ok 3#2 ∧ Contract State.reset.prim :=
  ⟨rfl, rfl, rfl, rfl, reset_contract⟩

theorem witness_EightWayMultiplexersSelectByNumber : State.reset.readBus16 (busSrc 0x000A) = .ok 0x000A#16 ∧
    State.reset.readBit (bitSrc true) = .ok true ∧ State.reset.readBus3 (.tie (.bus3 0#3)) = .ok 0#3 ∧
    State.reset.readBus3 (.tie (.bus3 7#3)) = .ok 7#3 ∧ Contract State.reset.prim :=
  ⟨rfl, rfl, rfl, rfl, reset_contract⟩

theorem witness_EightWayDemultiplexersRouteByNumber : State.reset.readBit (bitSrc true) = .ok true ∧
    State.reset.readBus16 (busSrc 0xBEEF) = .ok 0xBEEF#16 ∧ State.reset.readBus3 (.tie (.bus3 0#3)) = .ok 0#3 ∧
    State.reset.readBus3 (.tie (.bus3 7#3)) = .ok 7#3 ∧ Contract State.reset.prim :=
  ⟨rfl, rfl, rfl, rfl, reset_contract⟩

theorem witness_SelectorBitsAreMostSignificantFirst : Contract State.reset.prim ∧
    State.reset.readBus16 (busSrc 0x000A) = .ok 0x000A#16 ∧ State.reset.readBus16 (busSrc 0x0011) = .ok 0x0011#16 :=
  ⟨reset_contract, rfl, rfl⟩

theorem witness_OneBitAddersAddTheirBits : State.reset.readBit (bitSrc true) = .ok true ∧
    State.reset.readBit (bitSrc false) = .ok false ∧ Contract State.reset.prim := ⟨rfl, rfl, reset_contract⟩

theorem witness_AdderRipplesAndWraps : State.reset.readBus16 (busSrc 0xFFFF) = .ok 0xFFFF#16 ∧
    State.reset.readBus16 (busSrc 1) = .ok 1#16 ∧ Contract State.reset.prim := ⟨rfl, rfl, reset_contract⟩

theorem witness_IncrementerAddsOne : State.reset.readBus16 (busSrc 0xFFFF) = .ok 0xFFFF#16 ∧
    Contract State.reset.prim := ⟨rfl, reset_contract⟩

theorem witness_AluFollowsTheDecode : State.reset.readBus16 (busSrc 0x8000) = .ok 0x8000#16 ∧
    State.reset.readBus16 (busSrc 0x7FFF) = .ok 0x7FFF#16 ∧
    State.reset.readBit (bitSrc true) = .ok (ControlWord.unpack 0x23).zx ∧
    State.reset.readBit (bitSrc false) = .ok (ControlWord.unpack 0x23).nx ∧
    State.reset.readBit (bitSrc false) = .ok (ControlWord.unpack 0x23).zy ∧
    State.reset.readBit (bitSrc false) = .ok (ControlWord.unpack 0x23).ny ∧
    State.reset.readBit (bitSrc true) = .ok (ControlWord.unpack 0x23).f ∧
    State.reset.readBit (bitSrc true) = .ok (ControlWord.unpack 0x23).no ∧ Contract State.reset.prim :=
  ⟨rfl, rfl, rfl, rfl, rfl, rfl, rfl, rfl, reset_contract⟩

theorem witness_ZeroingComesBeforeNegation : State.reset.readBus16 (busSrc 0x8000) = .ok 0x8000#16 ∧
    State.reset.readBus16 (busSrc 0x7FFF) = .ok 0x7FFF#16 ∧
    State.reset.readBit (bitSrc true) = .ok (ControlWord.unpack 0x23).zx ∧
    State.reset.readBit (bitSrc false) = .ok (ControlWord.unpack 0x23).nx ∧
    State.reset.readBit (bitSrc false) = .ok (ControlWord.unpack 0x23).zy ∧
    State.reset.readBit (bitSrc false) = .ok (ControlWord.unpack 0x23).ny ∧
    State.reset.readBit (bitSrc true) = .ok (ControlWord.unpack 0x23).f ∧
    State.reset.readBit (bitSrc true) = .ok (ControlWord.unpack 0x23).no ∧ Contract State.reset.prim :=
  ⟨rfl, rfl, rfl, rfl, rfl, rfl, rfl, rfl, reset_contract⟩

theorem witness_FlagsAreReadFromTheFinalOutput : Contract State.reset.prim ∧
    (Instr.aluNegOne 1 (busSrc 0) (busSrc 0)).comp.outPorts = [(.out, .bus16), (.zr, .bit), (.ng, .bit)] ∧
    ∃ t, exec (.aluNegOne 1 (busSrc 0) (busSrc 0)) State.reset = .next t := ⟨reset_contract, rfl, _, rfl⟩

theorem witness_ConstantWordsGiveConstants : Contract State.reset.prim ∧ State.reset.readBus16 (busSrc 0x8000) = .ok 0x8000#16 ∧
    State.reset.readBus16 (busSrc 1) = .ok 1#16 := ⟨reset_contract, rfl, rfl⟩

theorem witness_PassNotAndNegateWords : Contract State.reset.prim ∧ State.reset.readBus16 (busSrc 0x8000) = .ok 0x8000#16 ∧
    State.reset.readBus16 (busSrc 1) = .ok 1#16 := ⟨reset_contract, rfl, rfl⟩

theorem witness_IncrementAndDecrementWords : Contract State.reset.prim ∧ State.reset.readBus16 (busSrc 0x8000) = .ok 0x8000#16 ∧
    State.reset.readBus16 (busSrc 1) = .ok 1#16 := ⟨reset_contract, rfl, rfl⟩

theorem witness_TwoOperandWords : Contract State.reset.prim ∧ State.reset.readBus16 (busSrc 0x8000) = .ok 0x8000#16 ∧
    State.reset.readBus16 (busSrc 1) = .ok 1#16 := ⟨reset_contract, rfl, rfl⟩

theorem witness_UnnamedWordsComputeTheDecode : Contract State.reset.prim ∧
    State.reset.readBus16 (busSrc 0x8000) = .ok 0x8000#16 ∧ State.reset.readBus16 (busSrc 1) = .ok 1#16 ∧
    (0x0A ∈ [0x0A, 0x1B, 0x1D]) ∧ (0x3D ∈ [0x08, 0x18, 0x20, 0x24, 0x28, 0x2C, 0x2F, 0x38, 0x3B, 0x3D]) ∧ 63 < 64 :=
  ⟨reset_contract, rfl, rfl, by decide, by decide, by decide⟩

theorem witness_ControlWordPacking : 63 < 64 := by decide

/-- Both ends of the ranges of widths, and words of each kind. -/
theorem witness_ControlWordsDecode : (0x2A, Instr.aluZero) ∈ canonicalWords ∧
    63 ∈ canonicalWords.map Prod.fst ∧ 0 < 64 ∧ 1 ∉ canonicalWords.map Prod.fst ∧ 6 ≤ 6 ∧ 8 ≤ 8 ∧ 5 < 6 ∧ 1 < 2 ^ 1 := by
  refine ⟨List.mem_cons_self, ?_, ?_, ?_, ?_, ?_, ?_, ?_⟩ <;> decide

/-- An instance with every argument form: a constant, a wire, a slice and a bus given position by position. -/
def everyForm : List Instr :=
  [.mux4Way16 1 (busSrc 0x8001) (.net (.input 65535)) (.net (.wire 2 .out)) (.assemble (List.replicate 16 (.tie true)))
     (.slice (.wire 3 .out) 14 15),
   .and 2 (.pos (.wire 1 .out) 15) (bitSrc true)]

theorem witness_DecodeInvertsEncode : ∀ i ∈ everyForm, i.wf = true := by decide
theorem witness_NetlistImageRoundTrip : ∀ i ∈ everyForm, i.wf = true := by decide
theorem witness_DecodedInstancesAreWellFormed :
    decode [0x41, 0x01, 0x00, 0x01, 0xFF] = .ok (.not 1 (bitSrc true), [0xFF]) := rfl

/-- The Bus_16 0x8001 on input port 10. -/
def driven : State := State.reset.drive 10 (.bus16 0x8001)

theorem witness_SlicesCarryTheirPositions : driven.net (.input 10) = .ok (.bus16 0x8001) ∧
    (8 : Fin 16) ≤ 15 ∧ (15 : Fin 16).val < (Value.bus16 0x8001).ty.positions ∧
    Ty.ofPositions ((15 : Fin 16).val + 1 - (8 : Fin 16).val) = some .bus8 := ⟨rfl, by decide, by decide, rfl⟩

theorem witness_HalvesOfABus : driven.net (.input 10) = .ok (.bus16 0x8001) := rfl

theorem witness_AssembledBusHasItsPositions : Ty.ofPositions [BitSrc.tie true, .pos (.input 10) 1].length = some .bus2 ∧
    [BitSrc.tie true, .pos (.input 10) 1].map driven.readBitSrc = [true, false].map Except.ok := ⟨rfl, rfl⟩

/-- Two instances, one after the other: `1 = Not(input 10)`, `2 = And(1.out, 1)`. -/
def first : Instr := .not 1 (.net (.input 10))
/-- The one that depends on it. -/
def second : Instr := .and 2 (.net (.wire 1 .out)) (bitSrc true)
/-- Nothing evaluated yet. -/
def started : State := (State.reset.build [first, second]).drive 10 (.bit false)
/-- `first` evaluated. -/
def halfway : State := started.settle 1 [(.out, .bit true)]
/-- Both evaluated. -/
def done : State := halfway.settle 2 [(.out, .bit true)]
/-- Both evaluated, the netlist listed the other way round. -/
def doneOtherOrder : State := { done with netlist := { done.netlist with instances := [second, first] } }

theorem witness_EvaluationSettlesOnlyItsOwnInstance : exec first started = .next halfway ∧ (2 : Name) ≠ first.name ∧
    ∀ p, (Net.input 10) ≠ .wire first.name p := ⟨rfl, by decide, fun _ => nofun⟩

theorem witness_EveryWellTypedEvaluationSucceeds : ∀ (k : Nat) (t : Ty) (a : Src), first.comp.inPorts[k]? = some t →
    first.args[k]? = some a → ∃ v, started.read a = .ok v ∧ v.ty = t := by
  rintro (_ | k) t a ht ha
  · cases ht
    cases ha
    exact ⟨.bit false, rfl, rfl⟩
  · simp [first, Instr.comp, Comp.inPorts] at ht

theorem witness_OutputsDependOnPresentInputsOnly : started.prim = done.prim ∧
    (∀ a ∈ first.args, started.read a = done.read a) ∧ exec first started = .next halfway ∧ started ≠ done :=
  ⟨rfl, by decide +kernel, rfl, by decide +kernel⟩

theorem witness_EvaluationIsIdempotent : first.name ∉ dependencies first ∧ exec first started = .next halfway :=
  ⟨by decide +kernel, rfl⟩

/-- An instance in a netlist for the other convention. -/
def otherConvention : State := { State.reset with netlist := { convention := .other, instances := [first] } }

theorem witness_OtherConventionIsRefused : otherConvention.netlist.convention = .other := rfl

/-- An input port without a value, and a port no instance has. -/
theorem witness_UndrivenInputIsRefused :
    (State.reset.build [first]).Undriven (.input 10) ∧ (.input 10) ∈ instrNets first ∧
    (State.reset.build [second]).Undriven (.wire 1 .out) ∧ (.wire 1 .out) ∈ instrNets second := by
  refine ⟨rfl, by decide +kernel, ?_, by decide +kernel⟩
  intro i hi he
  simp only [State.build_instances, List.mem_singleton] at hi
  subst hi
  exact absurd he (by decide)

theorem witness_WrongWidthIsRefused : first ∈ (driven.build [first]).netlist.instances ∧
    first.comp.inPorts[0]? = some .bit ∧ first.args[0]? = some (.net (.input 10)) ∧
    (driven.build [first]).srcType (.net (.input 10)) ≠ .ok .bit := by
  refine ⟨List.mem_cons_self, rfl, rfl, ?_⟩
  intro h
  cases h

/-- Feedback of one instance and of two. -/
theorem witness_FeedbackIsRefused :
    Feedback [.not 1 (.net (.wire 1 .out))] [1] ∧
    Feedback [.not 1 (.net (.wire 2 .out)), .not 2 (.net (.wire 1 .out))] [1, 2] := by
  refine ⟨⟨List.cons_ne_nil _ _, ?_⟩, ⟨List.cons_ne_nil _ _, ?_⟩⟩
  · intro d hd
    rw [List.mem_singleton.mp hd]
    exact ⟨_, List.mem_cons_self, rfl, 1, List.mem_cons_self, List.mem_cons_self⟩
  · intro d hd
    rcases List.mem_cons.mp hd with rfl | hd
    · exact ⟨_, List.mem_cons_self, rfl, 2, List.mem_cons_of_mem _ List.mem_cons_self, List.mem_cons_self⟩
    · rw [List.mem_singleton.mp hd]
      exact ⟨_, List.mem_cons_of_mem _ List.mem_cons_self, rfl, 1, List.mem_cons_self, List.mem_cons_self⟩

/-- A refused netlist of each kind, and an accepted one. -/
theorem witness_RefusedExactlyWhenNoNetlistOfTheCore : otherConvention.check = some .otherSelectorConvention ∧
    (State.reset.build [first, first]).check = some .duplicateName ∧
    (State.reset.build [first]).check = some .undrivenInput ∧ (driven.build [first]).check = some .widthMismatch ∧
    (State.reset.build [.not 1 (.net (.wire 1 .out))]).check = some .cycle ∧ started.check = none := by
  refine ⟨?_, ?_, ?_, ?_, ?_, ?_⟩ <;> decide +kernel

theorem witness_OnlyFeedbackIsRefusedAsCycle :
    (State.reset.build [.not 1 (.net (.wire 1 .out))]).check = some .cycle := by decide +kernel

theorem witness_AcceptedInstancesAreWellFormed : started.check = none := by decide +kernel

theorem witness_StepRunsTheNextInstance : started.check = none ∧ started.nextInstance = some first ∧
    halfway.check = none ∧ halfway.nextInstance = some second ∧ done.check = none ∧ done.nextInstance = none := by
  decide +kernel

theorem witness_StepRunsTheDecodedInstance : decode [0x41, 0x01, 0x00, 0x01] = .ok (.not 1 (bitSrc true), []) ∧
    (State.reset.build [.not 1 (bitSrc true)]).check = none ∧
    decodeTableWord 8 0x3F = some (.aluOne 0 (busSrc 0) (busSrc 0)) ∧
    (State.reset.withFetchWord 8 0x3F).check = none := by
  refine ⟨rfl, ?_, ?_, ?_⟩ <;> decide +kernel

theorem witness_PrimitiveStaysBound : step started = .next halfway ∧ step done = .next done := ⟨rfl, rfl⟩

/-- Two states that differ in what has settled alone; another input beside the one driven; another primitive to bind. -/
theorem witness_NewInputsStartANewEvaluation : started.prim = done.prim ∧ started.inputs = done.inputs ∧
    started.netlist = done.netlist ∧ started ≠ done ∧ storeWf started.inputs ∧ (10 : Name) ≠ 11 ∧
    ⟨true, false, false, false⟩ ≠ started.prim :=
  ⟨rfl, rfl, rfl, by decide +kernel, by decide, by decide, by decide⟩

theorem only_instances_done (l : List Instr) (h1 : first ∈ l) (h2 : second ∈ l) (s : State)
    (hs : s.settled = done.settled) (hl : s.netlist.instances = l) : s.OnlyInstances := by
  intro d h
  have h' : d = 1 ∨ d = 2 := by
    by_contra hc
    simp only [not_or] at hc
    have : s.isSettled d = false := by
      simp [State.isSettled, hs, done, halfway, started, storePut, storeGet, Ne.symm hc.1, Ne.symm hc.2]
    simp [this] at h
  rcases h' with rfl | rfl
  · exact ⟨first, hl ▸ h1, rfl⟩
  · exact ⟨second, hl ▸ h2, rfl⟩

theorem done_sound : done.Sound where
  canonical := by
    constructor <;> decide
  onlyInstances := only_instances_done _ (List.mem_cons_self) (List.mem_cons_of_mem _ List.mem_cons_self) _ rfl rfl
  consistent := by
    intro i hi _
    rcases List.mem_cons.mp hi with rfl | hi
    · rfl
    · rw [List.mem_singleton.mp hi]
      rfl

theorem doneOtherOrder_sound : doneOtherOrder.Sound where
  canonical := by
    constructor <;> decide
  onlyInstances := only_instances_done _ (List.mem_cons_of_mem _ List.mem_cons_self) (List.mem_cons_self) _ rfl rfl
  consistent := by
    intro i hi _
    rcases List.mem_cons.mp hi with rfl | hi
    · rfl
    · rw [List.mem_singleton.mp hi]
      rfl

theorem halfway_sound : halfway.Sound where
  canonical := by
    constructor <;> decide
  onlyInstances := by
    intro d h
    have h' : d = 1 := by
      by_contra hc
      have : halfway.isSettled d = false := by
        simp [State.isSettled, halfway, started, storePut, storeGet, Ne.symm hc]
      simp [this] at h
    exact ⟨first, List.mem_cons_self, h'.symm⟩
  consistent := by
    intro i hi hset
    rcases List.mem_cons.mp hi with rfl | hi
    · rfl
    · rw [List.mem_singleton.mp hi] at hset
      exact absurd hset (by decide +kernel)

theorem witness_StepKeepsEvaluationSound : halfway.Sound ∧ step halfway = .next done := ⟨halfway_sound, rfl⟩

theorem witness_SoundEvaluationNeverStops : halfway.Sound ∧ halfway.check = none :=
  ⟨halfway_sound, by decide +kernel⟩

theorem witness_EveryAcceptedNetlistSettles : started.check = none ∧ started.settled = [] ∧ storeWf started.inputs :=
  ⟨by decide +kernel, rfl, by decide⟩

theorem witness_EvaluationOrderDoesNotMatter : done.prim = doneOtherOrder.prim ∧ done.inputs = doneOtherOrder.inputs ∧
    done.netlist.instances.Perm doneOtherOrder.netlist.instances ∧ done.Finished ∧ doneOtherOrder.Finished :=
  ⟨rfl, rfl, List.Perm.swap _ _ _, ⟨done_sound, by decide +kernel, by decide +kernel⟩,
    ⟨doneOtherOrder_sound, by decide +kernel, by decide +kernel⟩⟩

theorem witness_LegalArgumentsHaveTheirType : halfway.Sound ∧ (halfway.netlist.instances.map Instr.name).Nodup ∧
    halfway.read (.net (.wire 1 .out)) = .ok (.bit true) ∧ done.Finished ∧ done.srcType (.net (.wire 2 .out)) = .ok .bit :=
  ⟨halfway_sound, by decide, rfl, ⟨done_sound, by decide +kernel, by decide +kernel⟩, rfl⟩

/-- Instances wired to constants, of a bus given position by position too. -/
theorem witness_AnyNumberOfInstancesIsAccepted : (Instr.and 1 (bitSrc true) (bitSrc false)).wf = true ∧
    instrNets (.and 1 (bitSrc true) (bitSrc false)) = [] ∧ (Instr.not2 1 (.assemble [.tie true, .tie false])).wf = true ∧
    instrNets (.not2 1 (.assemble [.tie true, .tie false])) = [] := ⟨by decide, rfl, by decide, rfl⟩

end Sys2Proof.Tests
end

section
/-! PROOFS. 00_scope.md: what a slice or a position of a bus carries, and the frame of an evaluation. -/

namespace Sys2Proof.Machine

/-! ### The positions of a value -/

@[simp] theorem valueBits_length (v : Value) : (valueBits v).length = v.ty.positions := by
  cases v <;> simp [valueBits, busBits, Value.ty, Ty.positions]

/-- Building a bus from a list of its width and listing its positions gives the list back. -/
theorem busBits_busOfFn_getD {n : Nat} {l : List Bit} (h : l.length = n) :
    busBits (busOfFn n fun k => l.getD k false) = l := by
  apply List.ext_getElem
  · simp [busBits, h]
  · intro k hk hl
    have hn : k < n := h ▸ hl
    simp [busBits, busOfFn_getMsbD n _ k hn, List.getElem?_eq_getElem hl]

/-- The bus type of a width has that many positions, and a Bit is the type of no width. -/
theorem ofPositions_eq_some {n : Nat} {t : Ty} (h : Ty.ofPositions n = some t) : t ≠ .bit ∧ n = t.positions := by
  unfold Ty.ofPositions at h
  split at h <;> cases h <;> exact ⟨nofun, rfl⟩

/-- A list of a bus's width is read as the bus with those positions. -/
theorem busOfBits_eq_some {l : List Bit} {t : Ty} (h : Ty.ofPositions l.length = some t) :
    ∃ u, busOfBits l = some u ∧ u.ty = t ∧ valueBits u = l := by
  obtain ⟨hbit, hlen⟩ := ofPositions_eq_some h
  unfold busOfBits
  rw [h]
  cases t with
  | bit => exact absurd rfl hbit
  | bus2 | bus3 | bus4 | bus8 | bus16 => exact ⟨_, rfl, rfl, busBits_busOfFn_getD hlen⟩

/-- A slice inside its bus, of a width a bus has, is the bus of the positions it names. -/
theorem valueSlice_eq_ok {v : Value} {i j : Nat} {t : Ty} (hij : i ≤ j) (hj : j < v.ty.positions)
    (ht : Ty.ofPositions (j + 1 - i) = some t) :
    ∃ u, valueSlice v i j = .ok u ∧ u.ty = t ∧ valueBits u = ((valueBits v).drop i).take (j + 1 - i) := by
  have hlen : (((valueBits v).drop i).take (j + 1 - i)).length = j + 1 - i := by
    rw [List.length_take, List.length_drop, valueBits_length]
    omega
  obtain ⟨u, hu, hty, hbits⟩ := busOfBits_eq_some (hlen.symm ▸ ht)
  exact ⟨u, by simp [valueSlice, hij, hj, hu], hty, hbits⟩

/-- A position inside its bus is one of the bus's Bits. -/
theorem valuePosition_eq_ok {v : Value} {i : Nat} (hi : i < v.ty.positions) :
    ∃ b, valuePosition v i = .ok b ∧ (valueBits v)[i]? = some b := by
  have hb := List.getElem?_eq_getElem (l := valueBits v) (i := i) (by rwa [valueBits_length])
  exact ⟨_, by rw [valuePosition, hb], hb⟩

/-! ### What a slice or a position of a net reads as -/

section
variable {s : State} {n : Net} {v : Value} (h : s.net n = .ok v)
include h

theorem read_slice (i j : Fin 16) : s.read (.slice n i j) = valueSlice v i.val j.val := by
  rw [State.read, h]
  rfl

theorem readBit_pos (i : Fin 16) : s.readBit (.pos n i) = valuePosition v i.val := by
  rw [State.readBit, State.read, h]
  cases hp : valuePosition v i.val <;> simp [bind, Except.bind, hp, asBit]

end

end Sys2Proof.Machine

namespace Sys2Proof.Proofs

open Sys2Proof.Machine

/-- Settles O36: a slice is the bus of the positions it cuts out, whose position `k` is position `i + k`. -/
theorem slicesCarryTheirPositions : Obligations.SlicesCarryTheirPositions := by
  intro s n v h
  constructor
  · intro i j t hij hj ht
    obtain ⟨u, hu, hty, hbits⟩ := valueSlice_eq_ok hij hj ht
    refine ⟨u, (read_slice h i j).trans hu, hty, fun k hk => ?_⟩
    rw [hbits, List.getElem?_take_of_lt hk, List.getElem?_drop]
  · intro i hi
    obtain ⟨b, hb, hbit⟩ := valuePosition_eq_ok hi
    exact ⟨b, (readBit_pos h i).trans hb, hbit⟩

/-- Settles O39: an evaluation only settles its own instance (`exec_settles`), and settling is framed by the laws of the
store and of the nets. -/
theorem evaluationSettlesOnlyItsOwnInstance : Obligations.EvaluationSettlesOnlyItsOwnInstance := by
  intro i s t h
  obtain ⟨o, rfl⟩ := exec_settles h
  have hself : (s.settle i.name o).isSettled i.name = true := by simp [State.isSettled_settle]
  exact ⟨rfl, rfl, rfl, hself, fun _ hd => storeGet_put_other hd o s.settled, fun _ hn => State.net_settle hn⟩

end Sys2Proof.Proofs
end

section
/-! PROOFS. 10_state.md: a step and what it leaves unchanged, what an accepted netlist holds, and soundness as an
invariant of every step. -/

namespace Sys2Proof.Machine

/-! ### Evaluating an instance in two states -/

/-- Where the primitive and the values of its arguments are the same, an instance settles the same outputs. -/
theorem exec_next_congr {i : Instr} {s t s' : State} (hp : s.prim = t.prim) (ha : ∀ a ∈ i.args, s.read a = t.read a)
    (h : exec i s = .next s') : ∃ o, s' = s.settle i.name o ∧ exec i t = .next (t.settle i.name o) := by
  obtain ⟨r, hs, ht⟩ := exec_congr i hp ha
  obtain ⟨o, rfl, ho⟩ := (State.conclude_eq_next s i.name).mp (hs.symm.trans h)
  exact ⟨o, ho, ht⟩

/-- A wire with a value comes from an instance that has settled. -/
theorem isSettled_of_net {s : State} {d : Name} {p : OutPort} {v : Value} (h : s.net (.wire d p) = .ok v) :
    s.isSettled d = true := by
  cases hd : storeGet d s.settled with
  | none => simp [State.net, hd] at h
  | some o => simp [State.isSettled, hd]

/-- While an instance has not settled, no argument that reads is wired to it, so settling it changes none. -/
theorem read_settle_of_read {s : State} {a : Src} {x : Value} {d : Name} (hd : s.isSettled d = false)
    (h : s.read a = .ok x) (o : Outputs) : s.read a = (s.settle d o).read a := by
  refine read_congr fun n hn => (State.net_settle fun p hw => ?_).symm
  obtain ⟨v, hv⟩ := net_of_read h n hn
  simp [isSettled_of_net (hw ▸ hv)] at hd

/-- An instance that evaluates does so with the same outputs once another, or itself, has settled for the first time. -/
theorem exec_settle_of_exec {i : Instr} {s t : State} {d : Name} (hd : s.isSettled d = false)
    (h : exec i s = .next t) (o : Outputs) :
    ∃ o', t = s.settle i.name o' ∧ exec i (s.settle d o) = .next ((s.settle d o).settle i.name o') := by
  refine exec_next_congr rfl (fun a ha => ?_) h
  obtain ⟨x, hx⟩ := exec_reads h a ha
  exact read_settle_of_read hd hx o

/-- In canonical form, setting what a name carries already changes nothing. -/
theorem storePut_of_storeGet {α : Type} {d : Name} {v : α} {l : List (Name × α)} (hl : storeWf l)
    (h : storeGet d l = some v) : storePut d v l = l := by
  refine store_ext (storePut_wf d v l hl) hl fun e => ?_
  by_cases he : e = d
  · rw [he, storeGet_put_same, h]
  · exact storeGet_put_other he v l

/-- Settling an instance as it has settled already changes nothing. -/
theorem State.settle_of_storeGet {s : State} {d : Name} {o : Outputs} (hs : storeWf s.settled)
    (h : storeGet d s.settled = some o) : s.settle d o = s := by
  rw [State.settle, storePut_of_storeGet hs h]

/-! ### An accepted netlist -/

theorem distinctNames_iff (l : List Name) : distinctNames l = true ↔ l.Nodup := by
  induction l with
  | nil => simp [distinctNames]
  | cons d l ih => simp [distinctNames, ih]

/-- An accepted netlist has distinct names. -/
theorem names_nodup_of_check {s : State} (h : s.check = none) : (s.netlist.instances.map Instr.name).Nodup := by
  obtain ⟨-, hnames, -, -⟩ := check_eq_none.mp h
  exact (distinctNames_iff _).mp hnames

/-- No argument is refused exactly when each has the type of its port. -/
theorem checkArgs_eq_none_iff {s : State} {ts : List Ty} {l : List Src} :
    s.checkArgs ts l = none ↔
      ∀ (k : Nat) (t : Ty) (a : Src), ts[k]? = some t → l[k]? = some a → s.srcType a = .ok t := by
  induction ts generalizing l with
  | nil => simp [State.checkArgs]
  | cons t ts ih =>
    cases l with
    | nil => simp [State.checkArgs]
    | cons a l =>
      rw [← Nat.and_forall_add_one]
      simp only [List.getElem?_cons_zero, List.getElem?_cons_succ, ← ih, Option.some.injEq, State.checkArgs]
      cases ha : s.srcType a with
      | error r => simp [ha]
      | ok u => by_cases hu : u = t <;> simp [ha, hu]

/-- No instance is refused exactly when the arguments of none are. -/
theorem checkInstances_eq_none_iff {s : State} {l : List Instr} :
    s.checkInstances l = none ↔ ∀ i ∈ l, s.checkArgs i.comp.inPorts i.args = none := by
  induction l with
  | nil => simp [State.checkInstances]
  | cons i l ih => cases hi : s.checkArgs i.comp.inPorts i.args <;> simp [State.checkInstances, hi, ih]

/-- In an accepted netlist every argument has the type of its port. -/
theorem srcType_of_check {s : State} {i : Instr} {k : Nat} {t : Ty} {a : Src} (h : s.check = none)
    (hi : i ∈ s.netlist.instances) (ht : i.comp.inPorts[k]? = some t) (ha : i.args[k]? = some a) :
    s.srcType a = .ok t := by
  obtain ⟨-, -, hargs, -⟩ := check_eq_none.mp h
  exact checkArgs_eq_none_iff.mp (checkInstances_eq_none_iff.mp hargs i hi) k t a ht ha

/-- An instance has one argument for each input port of its component. -/
theorem inPorts_length (i : Instr) : i.comp.inPorts.length = i.args.length := by
  cases i <;> rfl

/-- In an accepted netlist every argument has a type. -/
theorem exists_srcType_of_check {s : State} {i : Instr} {a : Src} (h : s.check = none)
    (hi : i ∈ s.netlist.instances) (ha : a ∈ i.args) : ∃ t, s.srcType a = .ok t := by
  obtain ⟨k, hk, rfl⟩ := List.mem_iff_getElem.mp ha
  have hport : k < i.comp.inPorts.length := inPorts_length i ▸ hk
  exact ⟨_, srcType_of_check h hi (List.getElem?_eq_getElem hport) (List.getElem?_eq_getElem hk)⟩

/-! ### What is refused -/

/-- A step refuses whatever the check does not accept. -/
theorem step_refused_of_check {s : State} (h : s.check ≠ none) : ∃ r, step s = .refused r := by
  obtain ⟨r, hr⟩ := Option.ne_none_iff_exists'.mp h
  exact ⟨r, by rw [step, hr]⟩

theorem findInstance_eq_some {d : Name} {l : List Instr} {i : Instr} (h : findInstance d l = some i) :
    i ∈ l ∧ i.name = d := by
  induction l with
  | nil => simp [findInstance] at h
  | cons j l ih =>
    unfold findInstance at h
    split at h
    case isTrue hj =>
      cases h
      exact ⟨List.mem_cons_self, hj⟩
    case isFalse =>
      obtain ⟨hmem, hname⟩ := ih h
      exact ⟨List.mem_cons_of_mem _ hmem, hname⟩

theorem mem_ports_of_portType {p : OutPort} {l : List (OutPort × Ty)} {t : Ty} (h : portType p l = some t) :
    p ∈ l.map Prod.fst := by
  induction l with
  | nil => simp [portType] at h
  | cons x l ih =>
    obtain ⟨q, u⟩ := x
    by_cases hq : q = p
    · simp [hq]
    · exact List.mem_cons_of_mem _ (ih (by simpa [portType, hq] using h))

/-- A net that nothing drives has no type. -/
theorem netType_of_undriven {s : State} {n : Net} (h : s.Undriven n) : s.netType n = .error .undrivenInput := by
  cases n with
  | input k =>
    have hk : storeGet k s.inputs = none := h
    simp [State.netType, hk]
  | wire d p =>
    cases hi : findInstance d s.netlist.instances with
    | none => simp [State.netType, hi]
    | some i =>
      obtain ⟨hmem, hname⟩ := findInstance_eq_some hi
      cases ht : portType p i.comp.outPorts with
      | none => simp [State.netType, hi, ht]
      | some t => exact absurd (mem_ports_of_portType ht) (h i hmem hname)

section
variable {s : State} {n : Net} {r : Refusal} (hr : s.netType n = .error r)
include hr

/-- A position wired to a net without a type has none itself. -/
theorem bitSrcType_of_netType_error {b : BitSrc} (hn : n ∈ bitSrcNets b) : s.bitSrcType b = .error r := by
  cases b with
  | tie x => simp [bitSrcNets] at hn
  | net m | pos m i =>
    obtain rfl := List.mem_singleton.mp hn
    simp [State.bitSrcType, hr, bind, Except.bind]

/-- A bus given position by position is refused when one of its positions is wired to a net without a type. -/
theorem checkBitSrcs_of_netType_error {l : List BitSrc} (hn : n ∈ l.flatMap bitSrcNets) :
    s.checkBitSrcs l ≠ none := by
  induction l with
  | nil => simp at hn
  | cons b l ih =>
    rw [List.flatMap_cons, List.mem_append] at hn
    rcases hn with hn | hn
    · simp [State.checkBitSrcs, bitSrcType_of_netType_error hr hn]
    · cases hb : s.bitSrcType b with
      | error => simp [State.checkBitSrcs, hb]
      | ok t => by_cases ht : t = .bit <;> simp [State.checkBitSrcs, hb, ht, ih hn]

/-- An argument wired to a net without a type, in whatever form, has none itself. -/
theorem srcType_of_netType_error {a : Src} (hn : n ∈ srcNets a) (t : Ty) : s.srcType a ≠ .ok t := by
  cases a with
  | tie v => simp [srcNets] at hn
  | net m | pos m i | slice m i j =>
    obtain rfl := List.mem_singleton.mp hn
    simp [State.srcType, hr, bind, Except.bind]
  | assemble bs =>
    obtain ⟨r', hr'⟩ := Option.ne_none_iff_exists'.mp (checkBitSrcs_of_netType_error hr hn)
    simp [State.srcType, hr']

end

/-! ### Well-formed instances -/

/-- An argument with a type fits a port of that type. -/
theorem fits_of_srcType {s : State} {a : Src} {t : Ty} (h : s.srcType a = .ok t) : a.fits t = true := by
  cases a with
  | tie v => simpa [State.srcType, Src.fits] using h
  | net n => rfl
  | pos n i =>
    cases hn : s.netType n with
    | error r => simp [State.srcType, hn, bind, Except.bind] at h
    | ok u =>
      simp only [State.srcType, hn, bind, Except.bind, positionType] at h
      split at h <;> simp_all [Src.fits]
  | slice n i j =>
    cases hn : s.netType n with
    | error r => simp [State.srcType, hn, bind, Except.bind] at h
    | ok u =>
      simp only [State.srcType, hn, bind, Except.bind, sliceType] at h
      split at h
      case isFalse => cases h
      case isTrue hij =>
        split at h <;> simp_all [Src.fits]
  | assemble bs =>
    simp only [State.srcType] at h
    split at h
    · cases h
    · split at h <;> simp_all [Src.fits]

/-- Arguments fit the ports exactly when there are as many and each fits its own. -/
theorem fitsPorts_iff {ts : List Ty} {l : List Src} :
    fitsPorts ts l = true ↔ ts.length = l.length ∧
      ∀ (k : Nat) (t : Ty) (a : Src), ts[k]? = some t → l[k]? = some a → a.fits t = true := by
  induction ts generalizing l with
  | nil => cases l <;> simp [fitsPorts]
  | cons t ts ih =>
    cases l with
    | nil => simp [fitsPorts]
    | cons a l =>
      rw [← Nat.and_forall_add_one]
      simp [fitsPorts, ih, and_left_comm]

/-- Every instance of an accepted netlist is well-formed. -/
theorem wf_of_check {s : State} {i : Instr} (h : s.check = none) (hi : i ∈ s.netlist.instances) : i.wf = true :=
  fitsPorts_iff.mpr ⟨inPorts_length i, fun _ _ _ ht ha => fits_of_srcType (srcType_of_check h hi ht ha)⟩

/-! ### A sound evaluation -/

section
variable {s : State} {i : Instr} {o : Outputs}

/-- Settling an instance of the netlist keeps the settled ones instances of the netlist. -/
theorem State.OnlyInstances.settle (hs : s.OnlyInstances) (hi : i ∈ s.netlist.instances) :
    (s.settle i.name o).OnlyInstances := by
  intro d hd
  rw [State.isSettled_settle, Bool.or_eq_true, decide_eq_true_iff] at hd
  rcases hd with rfl | hd
  · exact ⟨i, hi, rfl⟩
  · exact hs d hd

/-- Evaluating an instance that had not settled leaves every settled output what evaluating it again gives: nothing
evaluated before was wired to that instance, nor is the instance to itself. -/
theorem State.Consistent.settle (hs : s.Consistent) (hwf : storeWf s.settled)
    (hnames : (s.netlist.instances.map Instr.name).Nodup) (hi : i ∈ s.netlist.instances)
    (hnew : s.isSettled i.name = false) (h : exec i s = .next (s.settle i.name o)) :
    (s.settle i.name o).Consistent := by
  intro j hj hset
  have hwf' : storeWf (s.settle i.name o).settled := storePut_wf i.name o s.settled hwf
  by_cases hname : j.name = i.name
  · obtain rfl : j = i := List.inj_on_of_nodup_map hnames hj hi hname
    obtain ⟨o', ho', hexec⟩ := exec_settle_of_exec hnew h o
    have hget : storeGet j.name (s.settle j.name o).settled = some o' := by simp [ho']
    rw [hexec, State.settle_of_storeGet hwf' hget]
  · have hold : s.isSettled j.name = true := by simpa [State.isSettled_settle, hname] using hset
    obtain ⟨o', ho', hexec⟩ := exec_settle_of_exec hnew (hs j hj hold) o
    have hget : storeGet j.name (s.settle i.name o).settled = some o' := by
      rw [State.settle_settled, storeGet_put_other hname, ho', State.settle_settled, storeGet_put_same]
    rw [hexec, State.settle_of_storeGet hwf' hget]

end

end Sys2Proof.Machine

namespace Sys2Proof.Proofs

open Sys2Proof.Machine

/-- Settles O55: a step changes nothing or evaluates an instance that had not settled, which keeps each part of
soundness. -/
theorem stepKeepsEvaluationSound : Obligations.StepKeepsEvaluationSound := by
  intro s t hs hstep
  obtain ⟨hcheck, ⟨i, hnext, hexec⟩ | ⟨-, rfl⟩⟩ := step_cases hstep
  · obtain ⟨hi, hnew, -⟩ := nextInstance_spec hnext
    obtain ⟨hinputs, hsettled⟩ := hs.canonical
    obtain ⟨o, rfl⟩ := exec_settles hexec
    exact ⟨⟨hinputs, storePut_wf _ _ _ hsettled⟩, hs.onlyInstances.settle hi,
      hs.consistent.settle hsettled (names_nodup_of_check hcheck) hi hnew hexec⟩
  · exact hs

/-- Settles O41: `exec_next_congr`. -/
theorem outputsDependOnPresentInputsOnly : Obligations.OutputsDependOnPresentInputsOnly :=
  fun _ _ _ _ hp ha h => exec_next_congr hp ha h

/-- Settles O44: an undriven net has no type, so no argument wired to it has one, and the check accepts only arguments
that have. -/
theorem undrivenInputIsRefused : Obligations.UndrivenInputIsRefused := by
  intro s i n hi hn hundriven
  refine step_refused_of_check fun hcheck => ?_
  obtain ⟨a, ha, hna⟩ := List.mem_flatMap.mp hn
  obtain ⟨t, ht⟩ := exists_srcType_of_check hcheck hi ha
  exact srcType_of_netType_error (netType_of_undriven hundriven) hna t ht

/-- Settles O49: the type the check gives an argument is one it fits, and the check compares the names. -/
theorem acceptedInstancesAreWellFormed : Obligations.AcceptedInstancesAreWellFormed :=
  fun _ h => ⟨fun _ hi => wf_of_check h hi, names_nodup_of_check h⟩

/-- Settles O52: a step changes nothing or settles one instance. -/
theorem primitiveStaysBound : Obligations.PrimitiveStaysBound := by
  intro s t h
  obtain ⟨-, ⟨i, -, hexec⟩ | ⟨-, rfl⟩⟩ := step_cases h
  · obtain ⟨o, rfl⟩ := exec_settles hexec
    exact ⟨rfl, rfl, rfl⟩
  · exact ⟨rfl, rfl, rfl⟩

end Sys2Proof.Proofs
end

section
/-! PROOFS. 20_memory.md: the significance of selector Bits and of the halves of a bus, evaluating an instance again,
and the order of evaluation. -/

namespace Sys2Proof.Machine

/-! ### Multiplexers under the contract of the primitive -/

section
variable {p : Prim} (h : Contract p)
include h

/-- Input `2*s[0] + s[1]` is the output of the tree of R95. -/
theorem mux4Way16_contract (a b c d : Bus 16) (s : Bus 2) :
    [a, b, c, d][2 * (s.getMsbD 0).toNat + (s.getMsbD 1).toNat]? = some (mux4Way16 p a b c d s) := by
  simp only [mux4Way16, mux16_contract h]
  cases s.getMsbD 0 <;> cases s.getMsbD 1 <;> rfl

/-- Input `4*s[0] + 2*s[1] + s[2]` is the output of the tree of R99. -/
theorem mux8Way16_contract (v : Out8 (Bus 16)) (s : Bus 3) :
    [v.a, v.b, v.c, v.d, v.e, v.f, v.g, v.h][4 * (s.getMsbD 0).toNat + 2 * (s.getMsbD 1).toNat +
      (s.getMsbD 2).toNat]? = some (mux8Way16 p v s) := by
  have h1 : (busSlice 2 1 s).getMsbD 0 = s.getMsbD 1 := busSlice_getMsbD 2 1 s 0 (by decide)
  have h2 : (busSlice 2 1 s).getMsbD 1 = s.getMsbD 2 := busSlice_getMsbD 2 1 s 1 (by decide)
  simp only [mux8Way16, mux4Way16, mux16_contract h, h1, h2]
  cases s.getMsbD 0 <;> cases s.getMsbD 1 <;> cases s.getMsbD 2 <;> rfl

end

section
variable {s : State}

/-- `Mux4Way16` settles the tree of R95. -/
theorem exec_mux4Way16 (d : Name) {a b c e sel : Src} {va vb vc vd : Bus 16} {vs : Bus 2}
    (ha : s.readBus16 a = .ok va) (hb : s.readBus16 b = .ok vb) (hc : s.readBus16 c = .ok vc)
    (he : s.readBus16 e = .ok vd) (hs : s.readBus2 sel = .ok vs) :
    exec (.mux4Way16 d a b c e sel) s =
      .next (s.settle d [(.out, .bus16 (mux4Way16 s.prim va vb vc vd vs))]) :=
  evalMux4_next (f := fun p x y z w k => [(.out, .bus16 (mux4Way16 p x y z w k))]) ha hb hc he hs

/-- `Mux8Way16` settles the tree of R99. -/
theorem exec_mux8Way16 (d : Name) {a b c e g h k l sel : Src} {v : Out8 (Bus 16)} {vs : Bus 3}
    (ha : s.readBus16 a = .ok v.a) (hb : s.readBus16 b = .ok v.b) (hc : s.readBus16 c = .ok v.c)
    (he : s.readBus16 e = .ok v.d) (hg : s.readBus16 g = .ok v.e) (hh : s.readBus16 h = .ok v.f)
    (hk : s.readBus16 k = .ok v.g) (hl : s.readBus16 l = .ok v.h) (hs : s.readBus3 sel = .ok vs) :
    exec (.mux8Way16 d a b c e g h k l sel) s = .next (s.settle d [(.out, .bus16 (mux8Way16 s.prim v vs))]) :=
  evalMux8_next (f := fun p v z => [(.out, .bus16 (mux8Way16 p v z))]) ha hb hc he hg hh hk hl hs

end

/-! ### Selectors given by constant Bits -/

/-- A Bus_2 given as `(s0, s1)` has `s0` at index 0. -/
theorem readBus2_assemble_ties (s : State) (s0 s1 : Bit) :
    ∃ v, s.readBus2 (.assemble [.tie s0, .tie s1]) = .ok v ∧ v.getMsbD 0 = s0 ∧ v.getMsbD 1 = s1 :=
  ⟨_, rfl, busOfFn_getMsbD 2 _ 0 (by decide), busOfFn_getMsbD 2 _ 1 (by decide)⟩

/-- A Bus_3 given as `(s0, s1, s2)` has `s0` at index 0. -/
theorem readBus3_assemble_ties (s : State) (s0 s1 s2 : Bit) :
    ∃ v, s.readBus3 (.assemble [.tie s0, .tie s1, .tie s2]) = .ok v ∧ v.getMsbD 0 = s0 ∧ v.getMsbD 1 = s1 ∧
      v.getMsbD 2 = s2 :=
  ⟨_, rfl, busOfFn_getMsbD 3 _ 0 (by decide), busOfFn_getMsbD 3 _ 1 (by decide), busOfFn_getMsbD 3 _ 2 (by decide)⟩

/-! ### The halves of a bus -/

/-- The `m` positions from index `i` are the bits above the `n - i - m` less significant ones. -/
theorem busSlice_eq_extractLsb' {n m i : Nat} (v : Bus n) (h : i + m ≤ n) :
    busSlice m i v = v.extractLsb' (n - i - m) m := by
  refine bus_ext fun k hk => ?_
  have hpos : n - 1 - (i + k) = n - i - m + (m - 1 - k) := by omega
  have hlt : m - 1 - k < m := by omega
  rw [busSlice_getMsbD m i v k hk, BitVec.getMsbD_eq_getLsbD, BitVec.getMsbD_eq_getLsbD, BitVec.getLsbD_extractLsb',
    hpos]
  simp [hk, hlt, show i + k < n by omega]

theorem busBits_getElem? {n : Nat} (v : Bus n) {k : Nat} (hk : k < n) : (busBits v)[k]? = some (v.getMsbD k) := by
  simp [busBits, hk]

/-- Eight positions of a Bus_16 read as the Bus_8 of those positions. -/
theorem readBus8_slice {s : State} {n : Net} {v : Bus 16} (h : s.net n = .ok (.bus16 v)) {i j : Fin 16}
    (hij : j.val + 1 - i.val = 8) : s.readBus8 (.slice n i j) = .ok (busSlice 8 i.val v) := by
  have hwidth : Ty.ofPositions (j.val + 1 - i.val) = some .bus8 := by rw [hij]; rfl
  obtain ⟨hslice, -⟩ := Proofs.slicesCarryTheirPositions s n (.bus16 v) h
  obtain ⟨u, hu, hty, hpos⟩ := hslice i j .bus8 (by omega) j.isLt hwidth
  cases u with
  | bit | bus2 | bus3 | bus4 | bus16 => cases hty
  | bus8 w =>
    have hw : w = busSlice 8 i.val v := by
      refine bus_ext fun k hk => ?_
      have hbit := hpos k (by omega)
      simp only [valueBits] at hbit
      rw [busBits_getElem? w hk, busBits_getElem? v (by omega), Option.some.injEq] at hbit
      rw [hbit, busSlice_getMsbD 8 i.val v k hk]
    rw [State.readBus8, hu, hw]
    rfl

/-! ### Evaluating an instance again -/

/-- The second of two writes to a name is the one that counts. -/
@[simp] theorem storePut_storePut_same {α : Type} (d : Name) (v w : α) (l : List (Name × α)) :
    storePut d v (storePut d w l) = storePut d v l := by
  induction l with
  | nil => simp [storePut]
  | cons x l ih =>
    obtain ⟨k, u⟩ := x
    rcases lt_trichotomy d k with hlt | rfl | hgt
    · simp [storePut, hlt]
    · simp [storePut]
    · simp [storePut, not_lt_of_gt hgt, hgt.ne, ih]

/-- Settling an instance twice is settling it the second time. -/
@[simp] theorem State.settle_settle_same (s : State) (d : Name) (o o' : Outputs) :
    (s.settle d o).settle d o' = s.settle d o' := by
  simp [State.settle]

/-- A wire of an argument comes from an instance the instance depends on. -/
theorem mem_dependencies {i : Instr} {a : Src} {d : Name} {p : OutPort} (ha : a ∈ i.args)
    (hn : Net.wire d p ∈ srcNets a) : d ∈ dependencies i :=
  List.mem_flatMap.mpr ⟨.wire d p, List.mem_flatMap.mpr ⟨a, ha, hn⟩, List.mem_singleton_self d⟩

/-- Where the inputs are the same and all an instance depends on has settled alike, its arguments have the same
values. -/
theorem read_congr_of_dependencies {i : Instr} {s t : State} (hin : s.inputs = t.inputs)
    (hdep : ∀ d ∈ dependencies i, storeGet d s.settled = storeGet d t.settled) :
    ∀ a ∈ i.args, s.read a = t.read a := by
  refine fun a ha => read_congr fun n hn => ?_
  cases n with
  | input k => simp only [State.net, hin]
  | wire d p => simp only [State.net, hdep d (mem_dependencies ha hn)]

/-! ### Induction along the order of evaluation -/

section
variable {l : List Instr} {P : Name → Prop}

/-- What holds of every name of a list holds of every instance when the list names them all. -/
theorem forall_of_all_contains {done : List Name} (hdone : ∀ d ∈ done, P d)
    (h : (l.all fun i => done.contains i.name) = true) : ∀ i ∈ l, P i.name :=
  fun i hi => hdone _ (List.contains_iff_mem.mp (List.all_eq_true.mp h i hi))

variable (hstep : ∀ i ∈ l, (∀ d ∈ dependencies i, P d) → P i.name)
include hstep

/-- What passes from the instances an instance depends on to the instance holds of every instance an evaluation in
dependency order reaches. -/
theorem forall_of_acyclicFrom {k : Nat} {done : List Name} (h : acyclicFrom l k done = true)
    (hdone : ∀ d ∈ done, P d) : ∀ i ∈ l, P i.name := by
  induction k generalizing done with
  | zero => exact forall_of_all_contains hdone h
  | succ k ih =>
    unfold acyclicFrom at h
    split at h
    case h_2 => exact forall_of_all_contains hdone h
    case h_1 i hfind =>
      have hready := List.find?_some hfind
      simp only [ready, Bool.and_eq_true, List.all_eq_true, List.contains_iff_mem] at hready
      obtain ⟨-, hdep⟩ := hready
      have hi : P i.name := hstep i (List.mem_of_find?_eq_some hfind) fun d hd => hdone d (hdep d hd)
      exact ih h (List.forall_mem_cons.mpr ⟨hi, hdone⟩)

/-- Induction along the dependencies of a netlist without feedback. -/
theorem forall_of_acyclic (h : acyclic l = true) : ∀ i ∈ l, P i.name :=
  forall_of_acyclicFrom hstep h (by simp)

end

/-! ### Two evaluations of the same instances -/

/-- What has not settled carries nothing. -/
theorem isSettled_eq_false_iff {s : State} {d : Name} : s.isSettled d = false ↔ storeGet d s.settled = none := by
  simp [State.isSettled]

/-- In two consistent evaluations, an instance that has settled in both has settled alike if all it depends on has. -/
theorem storeGet_eq_of_consistent {s t : State} {i : Instr} (hp : s.prim = t.prim) (hin : s.inputs = t.inputs)
    (hs : exec i s = .next s) (ht : exec i t = .next t)
    (hdep : ∀ d ∈ dependencies i, storeGet d s.settled = storeGet d t.settled) :
    storeGet i.name s.settled = storeGet i.name t.settled := by
  obtain ⟨o, hos, hexec⟩ := exec_next_congr hp (read_congr_of_dependencies hin hdep) hs
  have hot : t = t.settle i.name o := by simpa [ht] using hexec
  rw [hos, hot]
  simp

/-- In a finished evaluation every instance has settled, so evaluating it again changes nothing. -/
theorem State.Finished.exec_eq {s : State} {i : Instr} (h : s.Finished) (hi : i ∈ s.netlist.instances) :
    exec i s = .next s :=
  h.sound.consistent i hi (List.all_eq_true.mp h.allSettled i hi)

/-- Only instances of the netlist carry outputs. -/
theorem State.OnlyInstances.storeGet_eq_none {s : State} {d : Name} (h : s.OnlyInstances)
    (hd : ∀ i ∈ s.netlist.instances, i.name ≠ d) : storeGet d s.settled = none := by
  refine isSettled_eq_false_iff.mp (Bool.eq_false_iff.mpr fun hset => ?_)
  obtain ⟨i, hi, hname⟩ := h d hset
  exact hd i hi hname

/-! ### The branches of a step -/

section
variable {s : State} (hcheck : s.check = none)
include hcheck

theorem step_of_nextInstance_some {i : Instr} (h : s.nextInstance = some i) : step s = exec i s := by
  simp [step, hcheck, h]

theorem step_of_nextInstance_none (h : s.nextInstance = none) : step s = .next s := by
  simp [step, hcheck, h]

end

end Sys2Proof.Machine

namespace Sys2Proof.Proofs

open Sys2Proof.Machine

/-- Settles O19: the multiplexers select by the Bits at indices 0, 1 and 2, and the Bits of a bus given position by
position stand there in order. -/
theorem selectorBitsAreMostSignificantFirst : Obligations.SelectorBitsAreMostSignificantFirst := by
  constructor
  · intro s d a b c e s0 s1 va vb vc vd hprim ha hb hc he
    obtain ⟨k, hk, rfl, rfl⟩ := readBus2_assemble_ties s s0 s1
    exact ⟨_, exec_mux4Way16 d ha hb hc he hk, mux4Way16_contract hprim va vb vc vd k⟩
  · intro s d a b c e g h i j s0 s1 s2 w hprim ha hb hc he hg hh hi hj
    obtain ⟨k, hk, rfl, rfl, rfl⟩ := readBus3_assemble_ties s s0 s1 s2
    exact ⟨_, exec_mux8Way16 d ha hb hc he hg hh hi hj hk, mux8Way16_contract hprim w k⟩

/-- Settles O37: the slices are the bits of `v` from 8 and from 0 on, its quotient and remainder by 256. -/
theorem halvesOfABus : Obligations.HalvesOfABus := by
  intro s n v h
  have hhi : busSlice 8 0 v = v.extractLsb' 8 8 := busSlice_eq_extractLsb' v (by decide)
  have hlo : busSlice 8 8 v = v.extractLsb' 0 8 := busSlice_eq_extractLsb' v (by decide)
  refine ⟨busSlice 8 0 v, busSlice 8 8 v, readBus8_slice h rfl, readBus8_slice h rfl, ?_, hhi, hlo⟩
  have hv := v.isLt
  rw [hhi, hlo, BitVec.extractLsb'_toNat, BitVec.extractLsb'_toNat, Nat.shiftRight_eq_div_pow, Nat.shiftRight_zero]
  omega

/-- Settles O42: the instance does not read what it settles, so it settles the same outputs once more. -/
theorem evaluationIsIdempotent : Obligations.EvaluationIsIdempotent := by
  intro i s t hself h
  obtain ⟨o, rfl⟩ := exec_settles h
  have hread : ∀ a ∈ i.args, s.read a = (s.settle i.name o).read a := read_congr_of_dependencies rfl fun d hd =>
    (storeGet_put_other (ne_of_mem_of_not_mem hd hself) o s.settled).symm
  obtain ⟨o', ho', hexec⟩ := exec_next_congr (State.settle_prim s i.name o).symm hread h
  rw [hexec, State.settle_settle_same, ho']

/-- Settles O58: by induction along the dependencies every instance has settled alike, and nothing else has settled. -/
theorem evaluationOrderDoesNotMatter : Obligations.EvaluationOrderDoesNotMatter := by
  intro s t hp hin hperm hs ht
  obtain ⟨-, -, -, hacyclic⟩ := check_eq_none.mp hs.accepted
  have hinst : ∀ i ∈ s.netlist.instances, storeGet i.name s.settled = storeGet i.name t.settled := by
    refine forall_of_acyclic (P := fun d => storeGet d s.settled = storeGet d t.settled) (fun i hi hdep => ?_) hacyclic
    exact storeGet_eq_of_consistent hp hin (hs.exec_eq hi) (ht.exec_eq (hperm.mem_iff.mp hi)) hdep
  obtain ⟨-, hwfs⟩ := hs.sound.canonical
  obtain ⟨-, hwft⟩ := ht.sound.canonical
  refine store_ext hwfs hwft fun d => ?_
  by_cases hd : ∃ i ∈ s.netlist.instances, i.name = d
  · obtain ⟨i, hi, rfl⟩ := hd
    exact hinst i hi
  · have hnone : ∀ i ∈ s.netlist.instances, i.name ≠ d := fun i hi hname => hd ⟨i, hi, hname⟩
    rw [hs.sound.onlyInstances.storeGet_eq_none hnone,
      ht.sound.onlyInstances.storeGet_eq_none fun i hi => hnone i (hperm.mem_iff.mpr hi)]

/-- Settles O50: the branches of `step`, and `nextInstance_spec`. -/
theorem stepRunsTheNextInstance : Obligations.StepRunsTheNextInstance :=
  fun _ hcheck => ⟨fun _ hnext => ⟨step_of_nextInstance_some hcheck hnext, nextInstance_spec hnext⟩,
    step_of_nextInstance_none hcheck⟩

end Sys2Proof.Proofs
end

section
/-! PROOFS. 30_encoding.md: what the decoder answers, the packing of the control word, the words of the opcode table,
and the step after loading an image. -/

namespace Sys2Proof

/-! ### What a decoder can answer -/

/-- Whatever a decoder answers, with the bytes it leaves, satisfies `P`. -/
def Answers {α : Type} (P : α → List Byte → Prop) (x : Except DecodeError (α × List Byte)) : Prop :=
  ∀ a r, x = .ok (a, r) → P a r

section
variable {α β : Type} {P : α → List Byte → Prop} {Q : β → List Byte → Prop}

theorem Answers.ok {a : α} {r : List Byte} (h : P a r) : Answers P (.ok (a, r)) := by
  rintro _ _ ⟨⟩
  exact h

theorem Answers.error (e : DecodeError) : Answers P (.error e) := nofun

/-- What follows a decoder only has to treat what that decoder can answer. -/
theorem Answers.bind {x : Except DecodeError (α × List Byte)} {f : α × List Byte → Except DecodeError (β × List Byte)}
    (hx : Answers P x) (hf : ∀ a r, P a r → Answers Q (f (a, r))) : Answers Q (x >>= f) := by
  intro b r h
  cases x with
  | error e => cases h
  | ok p => exact hf p.1 p.2 (hx _ _ rfl) b r h

theorem Answers.ite {c : Prop} [Decidable c] {x y : Except DecodeError (α × List Byte)}
    (hx : c → Answers P x) (hy : ¬c → Answers P y) : Answers P (if c then x else y) := by
  split
  · exact hx ‹_›
  · exact hy ‹_›

end

/-- At most `n` bytes are left. -/
abbrev LeavesAtMost {α : Type} (n : Nat) : Except DecodeError (α × List Byte) → Prop :=
  Answers fun _ r => r.length ≤ n

/-! ### No part of the decoder adds bytes -/

section
variable {n : Nat} {bs : List Byte} (h : bs.length ≤ n)
include h

theorem decodeByte_leavesAtMost : LeavesAtMost n (decodeByte bs) := by
  cases bs with
  | nil => exact .error _
  | cons b r => exact .ok (Nat.le_of_succ_le h)

theorem decodeName_leavesAtMost : LeavesAtMost n (decodeName bs) :=
  fun _ _ hd => Nat.le_trans (Nat.le_of_lt (decodeName_length hd)) h

theorem decodeNet_leavesAtMost : LeavesAtMost n (decodeNet bs) := by
  refine (decodeByte_leavesAtMost h).bind fun tag _ h1 => (decodeName_leavesAtMost h1).bind fun d _ h2 => ?_
  refine .ite (fun _ => .ok h2) fun _ => ?_
  split
  · exact .ok h2
  · exact .error _

theorem decodePos_leavesAtMost : LeavesAtMost n (decodePos bs) :=
  (decodeByte_leavesAtMost h).bind fun _ _ h1 => .ite (fun _ => .ok h1) fun _ => .error _

theorem decodeBit_leavesAtMost : LeavesAtMost n (decodeBit bs) :=
  (decodeByte_leavesAtMost h).bind fun _ _ h1 => .ite (fun _ => .ok h1) fun _ =>
    .ite (fun _ => .ok h1) fun _ => .error _

theorem decodeNarrow_leavesAtMost (k : Nat) : LeavesAtMost n (decodeNarrow k bs) :=
  (decodeByte_leavesAtMost h).bind fun _ _ h1 => .ite (fun _ => .ok h1) fun _ => .error _

theorem decodeValue_leavesAtMost (t : Ty) : LeavesAtMost n (decodeValue t bs) := by
  cases t with
  | bit => exact (decodeBit_leavesAtMost h).bind fun _ _ h1 => .ok h1
  | bus2 | bus3 | bus4 | bus8 => exact (decodeNarrow_leavesAtMost h _).bind fun _ _ h1 => .ok h1
  | bus16 =>
    exact (decodeByte_leavesAtMost h).bind fun _ _ h1 => (decodeByte_leavesAtMost h1).bind fun _ _ h2 => .ok h2

theorem decodeBitSrc_leavesAtMost : LeavesAtMost n (decodeBitSrc bs) := by
  refine (decodeByte_leavesAtMost h).bind fun tag _ h1 => ?_
  refine .ite (fun _ => ?tie) fun _ => .ite (fun _ => ?net) fun _ => .ite (fun _ => ?pos) fun _ => .error _
  case tie => exact (decodeBit_leavesAtMost h1).bind fun _ _ h2 => .ok h2
  case net => exact (decodeNet_leavesAtMost h1).bind fun _ _ h2 => .ok h2
  case pos =>
    exact (decodeNet_leavesAtMost h1).bind fun _ _ h2 => (decodePos_leavesAtMost h2).bind fun _ _ h3 => .ok h3

theorem decodeBitSrcs_leavesAtMost (k : Nat) : LeavesAtMost n (decodeBitSrcs k bs) := by
  induction k generalizing bs with
  | zero => exact .ok h
  | succ k ih => exact (decodeBitSrc_leavesAtMost h).bind fun _ _ h1 => (ih h1).bind fun _ _ h2 => .ok h2

theorem decodeForm_leavesAtMost (t : Ty) : LeavesAtMost n (decodeForm t bs) := by
  refine (decodeByte_leavesAtMost h).bind fun tag _ h1 => ?_
  refine .ite (fun _ => ?tie) fun _ => .ite (fun _ => ?net) fun _ => .ite (fun _ => ?pos) fun _ =>
    .ite (fun _ => ?slice) fun _ => .ite (fun _ => ?assemble) fun _ => .error _
  case tie => exact (decodeValue_leavesAtMost h1 t).bind fun _ _ h2 => .ok h2
  case net => exact (decodeNet_leavesAtMost h1).bind fun _ _ h2 => .ok h2
  case pos =>
    exact (decodeNet_leavesAtMost h1).bind fun _ _ h2 => (decodePos_leavesAtMost h2).bind fun _ _ h3 => .ok h3
  case slice =>
    exact (decodeNet_leavesAtMost h1).bind fun _ _ h2 => (decodePos_leavesAtMost h2).bind fun _ _ h3 =>
      (decodePos_leavesAtMost h3).bind fun _ _ h4 => .ok h4
  case assemble =>
    exact (decodeByte_leavesAtMost h1).bind fun k _ h2 => (decodeBitSrcs_leavesAtMost h2 k.toNat).bind fun _ _ h3 =>
      .ok h3

/-! ### The decoder answers what fits -/

/-- An argument that is answered fits its port. -/
theorem decodeSrc_fits (t : Ty) : Answers (fun a r => a.fits t = true ∧ r.length ≤ n) (decodeSrc t bs) :=
  (decodeForm_leavesAtMost h t).bind fun _ _ hr => .ite (fun hfits => .ok ⟨hfits, hr⟩) fun _ => .error _

/-- Arguments that are answered fit their ports. -/
theorem decodeArgs_fitsPorts (ts : List Ty) :
    Answers (fun l r => fitsPorts ts l = true ∧ r.length ≤ n) (decodeArgs ts bs) := by
  induction ts generalizing bs with
  | nil => exact .ok ⟨rfl, h⟩
  | cons t ts ih =>
    refine (decodeSrc_fits h t).bind fun a r ⟨ha, hr⟩ => (ih hr).bind fun l r' ⟨hl, hr'⟩ => .ok ⟨?_, hr'⟩
    rw [fitsPorts, ha, hl, Bool.and_self]

end

/-- What `build` answers is the instance of that component, name and arguments. -/
theorem build_eq_some {c : Comp} {d : Name} {l : List Src} {i : Instr} (h : c.build d l = some i) :
    i.comp = c ∧ i.name = d ∧ i.args = l := by
  unfold Comp.build at h
  split at h <;> cases h <;> exact ⟨rfl, rfl, rfl⟩

@[simp] theorem Src.fits_tie (t : Ty) (v : Value) : (Src.tie v).fits t = (v.ty == t) := rfl

/-- `ALU` with a control word tied off is well-formed on operands that fit a Bus_16. -/
theorem aluWord_wf (d : Name) (w : ControlWord) {x y : Src} (hx : x.fits .bus16 = true) (hy : y.fits .bus16 = true) :
    (Instr.aluWord d w x y).wf = true := by
  simp [Instr.wf, Instr.aluWord, Instr.comp, Instr.args, Comp.inPorts, fitsPorts, hx, hy, Value.ty]

/-- Whatever the code byte, an instance that is answered is well-formed, and its name has taken a byte. -/
theorem decodeBody_wf (code : Byte) (bs : List Byte) :
    Answers (fun i r => i.wf = true ∧ r.length < bs.length) (decodeBody code bs) := by
  have hname : Answers (fun _ r => r.length < bs.length) (decodeName bs) := fun _ _ => decodeName_length
  refine hname.bind fun d r hr => ?_
  dsimp only
  split
  case h_1 c _ =>
    refine (decodeArgs_fitsPorts (Nat.le_refl _) c.inPorts).bind fun l r' ⟨hl, hr'⟩ => ?_
    dsimp only
    split
    case h_1 i hi =>
      obtain ⟨rfl, -, rfl⟩ := build_eq_some hi
      exact .ok ⟨hl, Nat.lt_of_le_of_lt hr' hr⟩
    case h_2 => exact .error _
  case h_2 =>
    refine .ite (fun _ => ?_) fun _ => .error _
    exact (decodeSrc_fits (Nat.le_refl _) .bus16).bind fun x _ ⟨hx, hx'⟩ =>
      (decodeSrc_fits hx' .bus16).bind fun y _ ⟨hy, hy'⟩ => .ok ⟨aluWord_wf d _ hx hy, Nat.lt_of_le_of_lt hy' hr⟩

/-! ### The packing of the control word -/

theorem unpack_pack (w : ControlWord) : ControlWord.unpack w.pack = w := by
  obtain ⟨zx, nx, zy, ny, f, no⟩ := w
  revert zx nx zy ny f no
  decide

theorem pack_lt (w : ControlWord) : w.pack < 64 := by
  have := w.zx.toNat_le
  have := w.nx.toNat_le
  have := w.zy.toNat_le
  have := w.ny.toNat_le
  have := w.f.toNat_le
  have := w.no.toNat_le
  unfold ControlWord.pack
  omega

/-- The bits of a number below 64, weighted, sum up to it. -/
theorem pack_unpack {n : Nat} (h : n < 64) : (ControlWord.unpack n).pack = n := by
  simp only [ControlWord.pack, ControlWord.unpack, Nat.toNat_testBit]
  omega

/-! ### The words of the opcode table -/

/-- A word of at most 8 bits takes one byte, with zeros after it. -/
theorem tableBytes_of_le_eight {nbits w : Nat} (h1 : 1 ≤ nbits) (h8 : nbits ≤ 8) (hw : w < 2 ^ nbits) :
    tableBytes nbits w = BitVec.ofNat 8 w :: List.replicate zeroTail 0 := by
  have hlen : (nbits + 7) / 8 = 1 := by omega
  simp [tableBytes, hlen, Nat.mod_eq_of_lt hw]

/-- A word of at most 8 bits decodes as the byte of that number. -/
theorem decodeTableWord_of_le_eight {nbits w : Nat} (h1 : 1 ≤ nbits) (h8 : nbits ≤ 8) (hw : w < 2 ^ nbits) :
    decodeTableWord nbits w = decodeTableWord 8 w := by
  have hw8 : w < 2 ^ 8 := Nat.lt_of_lt_of_le hw (Nat.pow_le_pow_right (by decide) h8)
  rw [decodeTableWord, decodeTableWord, if_neg (Nat.ne_of_gt h1), if_neg (by decide),
    tableBytes_of_le_eight h1 h8 hw, tableBytes_of_le_eight (by decide) (Nat.le_refl 8) hw8]

/-- The operand the decoder reads from zeros, a tie-off of 0. -/
abbrev zeroSrc : Src := .tie (.bus16 ZERO16)

theorem decodeName_zeros (r : List Byte) : decodeName (0 :: r) = .ok (0, r) := rfl

theorem decodeSrc_zeros (r : List Byte) : decodeSrc .bus16 (0 :: 0 :: 0 :: r) = .ok (zeroSrc, r) := rfl

theorem decodeArgs_zeros (r : List Byte) :
    decodeArgs [.bus16, .bus16] (0 :: 0 :: 0 :: 0 :: 0 :: 0 :: r) = .ok ([zeroSrc, zeroSrc], r) := rfl

section
variable {code : Byte} (r : List Byte)

/-- The code of a component with two Bus_16 ports, with zeros after it. -/
theorem decode_zeros_of_ofCode?_some {c : Comp} {i : Instr} (hc : Comp.ofCode? code = some c)
    (hports : c.inPorts = [.bus16, .bus16]) (hbuild : c.build 0 [zeroSrc, zeroSrc] = some i) :
    decode (code :: 0 :: 0 :: 0 :: 0 :: 0 :: 0 :: 0 :: r) = .ok (i, r) := by
  simp only [decode, decodeByte, decodeBody, decodeName_zeros, hc, hports, decodeArgs_zeros, hbuild, bind, Except.bind]

/-- A code below 64 of no component, with zeros after it, is a control word tied off. -/
theorem decode_zeros_of_ofCode?_none (hc : Comp.ofCode? code = none) (hcode : code.toNat < 64) :
    decode (code :: 0 :: 0 :: 0 :: 0 :: 0 :: 0 :: 0 :: r) =
      .ok (Instr.aluWord 0 (ControlWord.unpack code.toNat) zeroSrc zeroSrc, r) := by
  simp only [decode, decodeByte, decodeBody, decodeName_zeros, hc, hcode, decodeSrc_zeros, bind, Except.bind, if_true]

end

/-- A table word decodes to what its byte and zeros after it decode to. -/
theorem decodeTableWord_eq_some {w : Nat} {i : Instr} (hw : w < 256)
    (h : ∀ r, decode (BitVec.ofNat 8 w :: 0 :: 0 :: 0 :: 0 :: 0 :: 0 :: 0 :: r) = .ok (i, r)) :
    decodeTableWord 8 w = some i := by
  have htail : List.replicate zeroTail (0 : Byte) = 0 :: 0 :: 0 :: 0 :: 0 :: 0 :: 0 :: List.replicate 593 0 := rfl
  rw [decodeTableWord, if_neg (by decide), tableBytes_of_le_eight (by decide) (Nat.le_refl 8) hw, htail, h]

end Sys2Proof

namespace Sys2Proof.Machine

/-- The canonical words are component codes of their rows, which have two Bus_16 ports. -/
theorem canonicalWords_spec : ∀ c ∈ canonicalWords, c.1 < 64 ∧ ∃ k : Comp,
    Comp.ofCode? (BitVec.ofNat 8 c.1) = some k ∧ k.inPorts = [.bus16, .bus16] ∧
      ∀ d x y, k.build d [x, y] = some (c.2 d x y) := by
  intro c hc
  fin_cases hc <;> exact ⟨by decide, _, rfl, rfl, fun _ _ _ => rfl⟩

/-- No other number below 64 is a component code. -/
theorem ofCode?_eq_none : ∀ n < 64, n ∉ canonicalWords.map Prod.fst → Comp.ofCode? (BitVec.ofNat 8 n) = none := by
  decide

theorem decodeTableWord_canonical {c : Nat × (Name → Src → Src → Instr)} (hc : c ∈ canonicalWords) :
    decodeTableWord 8 c.1 = some (c.2 0 zeroSrc zeroSrc) := by
  obtain ⟨hlt, k, hk, hports, hbuild⟩ := canonicalWords_spec c hc
  exact decodeTableWord_eq_some (Nat.lt_trans hlt (by decide)) fun r =>
    decode_zeros_of_ofCode?_some r hk hports (hbuild 0 zeroSrc zeroSrc)

theorem decodeTableWord_unnamed {n : Nat} (hn : n < 64) (hother : n ∉ canonicalWords.map Prod.fst) :
    decodeTableWord 8 n = some (Instr.aluWord 0 (ControlWord.unpack n) zeroSrc zeroSrc) := by
  have hn8 : n < 256 := Nat.lt_trans hn (by decide)
  have hbyte : (BitVec.ofNat 8 n).toNat = n := toNat_ofNat_byte hn8
  refine decodeTableWord_eq_some hn8 fun r => ?_
  have h := decode_zeros_of_ofCode?_none r (ofCode?_eq_none n hn hother) (hbyte.symm ▸ hn)
  rwa [hbyte] at h

/-! ### The step after loading one instance -/

/-- An image that decodes to one instance is the image of the netlist of that instance. -/
theorem decodeNetlist_of_decode {image : List Byte} {i : Instr} (h : decode image = .ok (i, [])) :
    decodeNetlist image = .ok [i] := by
  cases image with
  | nil => cases h
  | cons b r =>
    have hnil : decodeAll r.length [] = .ok [] := by cases r <;> rfl
    simp only [decodeNetlist, List.length_cons, decodeAll, h, hnil, bind, Except.bind]

/-- A lone instance that is no feedback is ready. -/
theorem ready_of_acyclic_singleton {i : Instr} (h : acyclic [i] = true) : ready (fun _ => false) i = true := by
  by_contra hready
  have hready' : ready (List.contains []) i = false := Bool.eq_false_iff.mpr hready
  simp [acyclic, acyclicFrom, hready'] at h

/-- Where nothing has settled, a lone accepted instance is the one a step evaluates. -/
theorem step_build_singleton {s : State} {i : Instr} (h : (s.build [i]).check = none) :
    step (s.build [i]) = exec i (s.build [i]) := by
  obtain ⟨-, -, -, hacyclic⟩ := check_eq_none.mp h
  have hnext : (s.build [i]).nextInstance = some i := List.find?_cons_of_pos (ready_of_acyclic_singleton hacyclic)
  exact step_of_nextInstance_some h hnext

end Sys2Proof.Machine

namespace Sys2Proof.Proofs

open Sys2Proof.Machine

/-- Settles O35: the code byte, then `decodeBody_wf`. -/
theorem decodedInstancesAreWellFormed : Obligations.DecodedInstancesAreWellFormed := by
  intro bs rest i h
  cases bs with
  | nil => cases h
  | cons code bs =>
    obtain ⟨hwf, hlen⟩ := decodeBody_wf code bs i rest h
    exact ⟨hwf, Nat.succ_le_succ hlen⟩

/-- Settles O31: packing and unpacking are inverse on the numbers below 64. -/
theorem controlWordPacking : Obligations.ControlWordPacking :=
  ⟨fun w => ⟨unpack_pack w, pack_lt w, rfl⟩, fun _ => pack_unpack⟩

/-- Settles O32: a word of at most 8 bits decodes as the byte of that number, which is a component code exactly for the
canonical words. -/
theorem controlWordsDecode : Obligations.ControlWordsDecode := by
  refine ⟨fun nbits h6 h8 => ?_, fun nbits h1 h6 n hn => ?_⟩
  · have hpow : 2 ^ 6 ≤ 2 ^ nbits := Nat.pow_le_pow_right (by decide) h6
    have hbyte {n : Nat} (hn : n < 64) : decodeTableWord nbits n = decodeTableWord 8 n :=
      decodeTableWord_of_le_eight (by omega) h8 (Nat.lt_of_lt_of_le hn hpow)
    refine ⟨fun c hc => ?_, fun n hn hother => ?_⟩
    · obtain ⟨hlt, -⟩ := canonicalWords_spec c hc
      rw [hbyte hlt, decodeTableWord_canonical hc]
    · rw [hbyte hn, decodeTableWord_unnamed hn hother]
  · have hn6 : n < 2 ^ 6 := Nat.lt_of_lt_of_le hn (Nat.pow_le_pow_right (by decide) (Nat.le_of_lt h6))
    rw [decodeTableWord_of_le_eight h1 (by omega) hn, decodeTableWord_of_le_eight (by decide) (by decide) hn6]

/-- Settles O51: both ways of loading build the netlist of the one decoded instance, and `step_build_singleton`. -/
theorem stepRunsTheDecodedInstance : Obligations.StepRunsTheDecodedInstance := by
  constructor
  · intro s image i h
    have hload : s.load image = .ok (s.build [i]) := by rw [State.load, decodeNetlist_of_decode h]; rfl
    exact ⟨_, hload, rfl, step_build_singleton⟩
  · intro s nbits w i h
    rw [State.withFetchWord, h]
    exact step_build_singleton

end Sys2Proof.Proofs
end

section
/-! PROOFS. 40_gates.md: the primitive and the elementary gates, each as the composition of `P` its rule gives and as a
Boolean function under the contract. -/

namespace Sys2Proof.Machine

/-! ### A primitive and its table -/

@[simp] theorem primApp_ofFn (f : Bit → Bit → Bit) (x y : Bit) : primApp (Prim.ofFn f) x y = f x y := by
  cases x <;> cases y <;> rfl

@[simp] theorem ofFn_primApp (p : Prim) : Prim.ofFn (primApp p) = p := rfl

/-! ### What an instance of a gate settles -/

section
variable {s : State} {a b : Src} {x y : Bit} (d : Name) (ha : s.readBit a = .ok x)
include ha

theorem exec_not : exec (.not d a) s = .next (s.settle d [(.out, .bit (gateNot s.prim x))]) :=
  eval1_next (f := fun p x => [(.out, .bit (gateNot p x))]) ha

variable (hb : s.readBit b = .ok y)
include hb

theorem exec_p : exec (.p d a b) s = .next (s.settle d [(.out, .bit (primApp s.prim x y))]) :=
  eval2_next (f := fun p x y => [(.out, .bit (primApp p x y))]) ha hb

theorem exec_and : exec (.and d a b) s = .next (s.settle d [(.out, .bit (gateAnd s.prim x y))]) :=
  eval2_next (f := fun p x y => [(.out, .bit (gateAnd p x y))]) ha hb

theorem exec_or : exec (.or d a b) s = .next (s.settle d [(.out, .bit (gateOr s.prim x y))]) :=
  eval2_next (f := fun p x y => [(.out, .bit (gateOr p x y))]) ha hb

theorem exec_xor : exec (.xor d a b) s = .next (s.settle d [(.out, .bit (gateXor s.prim x y))]) :=
  eval2_next (f := fun p x y => [(.out, .bit (gateXor p x y))]) ha hb

end

end Sys2Proof.Machine

namespace Sys2Proof.Proofs

open Sys2Proof.Machine

/-- Settles O1: the value under the contract is the contract itself, and tables and functions correspond. -/
theorem primitiveIsNand : Obligations.PrimitiveIsNand :=
  ⟨fun _ d _ _ x y ha hb => ⟨exec_p d ha hb, fun hnand => hnand x y⟩, primApp_ofFn, ofFn_primApp⟩

/-- Settles O2: `gateNot` is `P(a, a)`. -/
theorem notIsItsDefiningIdentity : Obligations.NotIsItsDefiningIdentity :=
  fun _ d _ x ha => ⟨exec_not d ha, fun hnand => gateNot_contract hnand x⟩

/-- Settles O3: `gateAnd` is `Not(P(a, b))`. -/
theorem andIsItsDefiningIdentity : Obligations.AndIsItsDefiningIdentity :=
  fun s d _ _ x y ha hb =>
    ⟨gateAnd s.prim x y, rfl, exec_and d ha hb, fun hnand => gateAnd_contract hnand x y⟩

/-- Settles O4: `gateOr` is `P(Not(a), Not(b))`, De Morgan under the contract. -/
theorem orIsItsDefiningIdentity : Obligations.OrIsItsDefiningIdentity :=
  fun s d _ _ x y ha hb =>
    ⟨gateOr s.prim x y, rfl, exec_or d ha hb, fun hnand => gateOr_contract hnand x y⟩

/-- Settles O5: `gateXor` is `And(P(a, b), Or(a, b))`. -/
theorem xorIsItsDefiningIdentity : Obligations.XorIsItsDefiningIdentity :=
  fun s d _ _ x y ha hb =>
    ⟨gateXor s.prim x y, rfl, exec_xor d ha hb, fun hnand => gateXor_contract hnand x y⟩

end Sys2Proof.Proofs
end

section
/-! PROOFS. 41_bus.md: the lifted gates at every width, fan-out and reduction, each position by position for every
primitive and as an integer under the contract. -/

namespace Sys2Proof.Machine

/-! ### The lifted gates on integers -/

section
variable {n : Nat} {p : Prim} (h : Contract p) (x y : Bus n)
include h

theorem toNat_busNot : (busNot p x).toNat = 2 ^ n - 1 - x.toNat := by
  rw [busNot_contract h, BitVec.toNat_not]

theorem toNat_busAnd : (busAnd p x y).toNat = x.toNat &&& y.toNat := by
  rw [busAnd_contract h, BitVec.toNat_and]

theorem toNat_busOr : (busOr p x y).toNat = x.toNat ||| y.toNat := by
  rw [busOr_contract h, BitVec.toNat_or]

theorem toNat_busXor : (busXor p x y).toNat = x.toNat ^^^ y.toNat := by
  rw [busXor_contract h, BitVec.toNat_xor]

theorem busNot_busNot : busNot p (busNot p x) = x := by
  rw [busNot_contract h, busNot_contract h, BitVec.not_not]

end

/-! ### From the evaluation of a row to its lifted gate

Each lemma takes the one fact a row has to supply: the evaluation `exec` gives it. -/

section
variable {n : Nat} {rd : Reader (Bus n)} {mk : Bus n → Value}

theorem liftedNegation_of_exec {mkInstr : Name → Src → Instr}
    (hexec : ∀ d a s, exec (mkInstr d a) s = eval1 rd (fun p x => [(.out, mk (busNot p x))]) d a s) :
    LiftedNegation n rd mk mkInstr := by
  intro s d a x ha
  refine ⟨busNot s.prim x, ?_, fun i hi => busNot_getMsbD s.prim x hi, fun hnand => toNat_busNot hnand x⟩
  rw [hexec, eval1_next ha]

variable {mkInstr : Name → Src → Src → Instr}

/-- `bus` is the lifting of `gate`, and `f` on integers under the contract. -/
theorem liftedGate_of_exec {gate : Prim → Bit → Bit → Bit} {f : Nat → Nat → Nat}
    {bus : Prim → Bus n → Bus n → Bus n}
    (hpos : ∀ p x y {i}, i < n → (bus p x y).getMsbD i = gate p (x.getMsbD i) (y.getMsbD i))
    (hval : ∀ {p}, Contract p → ∀ x y, (bus p x y).toNat = f x.toNat y.toNat)
    (hexec : ∀ d a b s, exec (mkInstr d a b) s = eval2 rd rd (fun p x y => [(.out, mk (bus p x y))]) d a b s) :
    LiftedGate n rd mk gate f mkInstr := by
  intro s d a b x y ha hb
  refine ⟨bus s.prim x y, ?_, fun i hi => hpos s.prim x y hi, fun hnand => hval hnand x y⟩
  rw [hexec, eval2_next ha hb]

theorem liftedAnd_of_exec
    (hexec : ∀ d a b s, exec (mkInstr d a b) s = eval2 rd rd (fun p x y => [(.out, mk (busAnd p x y))]) d a b s) :
    LiftedGate n rd mk gateAnd (· &&& ·) mkInstr :=
  liftedGate_of_exec busAnd_getMsbD toNat_busAnd hexec

theorem liftedOr_of_exec
    (hexec : ∀ d a b s, exec (mkInstr d a b) s = eval2 rd rd (fun p x y => [(.out, mk (busOr p x y))]) d a b s) :
    LiftedGate n rd mk gateOr (· ||| ·) mkInstr :=
  liftedGate_of_exec busOr_getMsbD toNat_busOr hexec

theorem liftedXor_of_exec
    (hexec : ∀ d a b s, exec (mkInstr d a b) s = eval2 rd rd (fun p x y => [(.out, mk (busXor p x y))]) d a b s) :
    LiftedGate n rd mk gateXor (· ^^^ ·) mkInstr :=
  liftedGate_of_exec busXor_getMsbD toNat_busXor hexec

end

/-! ### Fan-out and reduction -/

theorem exec_fanout16 {s : State} {a : Src} {x : Bit} (d : Name) (ha : s.readBit a = .ok x) :
    exec (.fanout16 d a) s = .next (s.settle d [(.out, .bus16 (fanout16 x))]) :=
  eval1_next (f := fun _ x => [(.out, .bus16 (fanout16 x))]) ha

theorem fanout16_eq_ite (x : Bit) : fanout16 x = if x then 0xFFFF#16 else ZERO16 := by
  cases x <;> rfl

theorem exec_or8Way {s : State} {a : Src} {x : Bus 8} (d : Name) (ha : s.readBus8 a = .ok x) :
    exec (.or8Way d a) s = .next (s.settle d [(.out, .bit (or8Way s.prim x))]) :=
  eval1_next (f := fun p x => [(.out, .bit (or8Way p x))]) ha

theorem or8Way_eq_foldl (p : Prim) (x : Bus 8) :
    or8Way p x = [1, 2, 3, 4, 5, 6, 7].foldl (fun acc i => gateOr p acc (x.getMsbD i)) (x.getMsbD 0) := by
  simp only [or8Way, List.foldl_cons, List.foldl_nil]

theorem toNat_ne_zero_iff_exists_getMsbD {n : Nat} (x : Bus n) : x.toNat ≠ 0 ↔ ∃ i < n, x.getMsbD i = true := by
  constructor
  · intro hne
    by_contra hall
    have hzero : x = 0#n := bus_ext fun i hi => by
      rw [BitVec.getMsbD_zero]
      exact Bool.eq_false_iff.mpr fun hone => hall ⟨i, hi, hone⟩
    exact hne (by rw [hzero, BitVec.toNat_zero])
  · rintro ⟨i, -, hone⟩ hzero
    rw [BitVec.eq_of_toNat_eq (hzero.trans BitVec.toNat_zero.symm), BitVec.getMsbD_zero] at hone
    exact Bool.false_ne_true hone

end Sys2Proof.Machine

namespace Sys2Proof.Proofs

open Sys2Proof.Machine

/-- Settles O6: each row evaluates `busNot` on its width. -/
theorem liftedNotAtEveryWidth : Obligations.LiftedNotAtEveryWidth := by
  refine ⟨?_, ?_, ?_, ?_, ?_⟩ <;> exact liftedNegation_of_exec fun _ _ _ => rfl

/-- Settles O7: each row evaluates `busAnd` on its width. -/
theorem liftedAndAtEveryWidth : Obligations.LiftedAndAtEveryWidth := by
  refine ⟨?_, ?_, ?_, ?_, ?_⟩ <;> exact liftedAnd_of_exec fun _ _ _ _ => rfl

/-- Settles O8: each row evaluates `busOr` on its width. -/
theorem liftedOrAtEveryWidth : Obligations.LiftedOrAtEveryWidth := by
  refine ⟨?_, ?_, ?_, ?_, ?_⟩ <;> exact liftedOr_of_exec fun _ _ _ _ => rfl

/-- Settles O9: each row evaluates `busXor` on its width. -/
theorem liftedXorAtEveryWidth : Obligations.LiftedXorAtEveryWidth := by
  refine ⟨?_, ?_, ?_, ?_, ?_⟩ <;> exact liftedXor_of_exec fun _ _ _ _ => rfl

/-- Settles O10: position by position the gates are their Boolean functions, as integers the bitwise operations. -/
theorem liftedGatesSatisfyTheSourceProperties : Obligations.LiftedGatesSatisfyTheSourceProperties := by
  intro n p a b hnand
  refine ⟨busNot_busNot hnand a, fun k hk => ?_, fun k hk => ?_, toNat_busNot hnand a, toNat_busAnd hnand a b,
    toNat_busOr hnand a b, toNat_busXor hnand a b⟩
  · rw [busAnd_getMsbD p a b hk, gateAnd_contract hnand]
  · rw [busOr_getMsbD p a b hk, gateOr_contract hnand]

/-- Settles O12: `or8Way` is the fold, and under the contract the disjunction of the positions, which are all 0 exactly
for the integer 0. -/
theorem reductionFoldsAllEightPositions : Obligations.ReductionFoldsAllEightPositions := by
  intro s d a x ha
  refine ⟨or8Way s.prim x, exec_or8Way d ha, or8Way_eq_foldl s.prim x, fun hnand => ?_⟩
  have hone : or8Way s.prim x = true ↔ ∃ i < 8, x.getMsbD i = true := or8Way_contract hnand x
  exact ⟨hone.trans (toNat_ne_zero_iff_exists_getMsbD x).symm, hone⟩

/-- Settles O11: `fanout16` has the Bit at every position. -/
theorem fanoutFillsEveryPosition : Obligations.FanoutFillsEveryPosition :=
  fun _ d _ x ha => ⟨fanout16 x, exec_fanout16 d ha, fun _ hi => fanout16_getMsbD x hi, fanout16_eq_ite x⟩

end Sys2Proof.Proofs
end

section
/-! PROOFS. 42_selectors.md: what every selector settles for every primitive, and which input or output its selector
chooses under the contract. A selector on Bits is one position of the selector on buses, whatever the primitive; so what
is proved of the buses holds of the Bits. -/

namespace Sys2Proof

/-- The outputs of a 4-way demultiplexer, output number `n` at index `n`. -/
def Out4.toList {α : Type} (o : Out4 α) : List α := [o.a, o.b, o.c, o.d]

/-- The outputs of an 8-way demultiplexer, output number `n` at index `n`. -/
def Out8.toList {α : Type} (o : Out8 α) : List α := [o.a, o.b, o.c, o.d, o.e, o.f, o.g, o.h]

end Sys2Proof

namespace Sys2Proof.Machine

/-! ### The number of a selector -/

theorem toNat_bus2 (s : Bus 2) : s.toNat = 2 * (s.getMsbD 0).toNat + (s.getMsbD 1).toNat := by
  revert s
  decide

theorem toNat_bus3 (s : Bus 3) :
    s.toNat = 4 * (s.getMsbD 0).toNat + 2 * (s.getMsbD 1).toNat + (s.getMsbD 2).toNat := by
  revert s
  decide

/-- The slice `s[1..2]` is what `s` counts beyond the half that `s[0]` chooses. -/
theorem toNat_eq_add_busSlice (s : Bus 3) : s.toNat = 4 * (s.getMsbD 0).toNat + (busSlice 2 1 s).toNat := by
  revert s
  decide

/-! ### The positions of the selectors on buses -/

section
variable (p : Prim) {k : Nat} (hk : k < 16)
include hk

theorem mux16_getMsbD (a b : Bus 16) (s : Bit) :
    (mux16 p a b s).getMsbD k = mux p (a.getMsbD k) (b.getMsbD k) s := by
  simp [mux16, mux, hk]

theorem mux4Way16_getMsbD (a b c d : Bus 16) (s : Bus 2) :
    (mux4Way16 p a b c d s).getMsbD k = mux4Way p (a.getMsbD k) (b.getMsbD k) (c.getMsbD k) (d.getMsbD k) s := by
  simp only [mux4Way16, mux4Way, mux16_getMsbD p hk]

theorem mux8Way16_getMsbD (v : Out8 (Bus 16)) (s : Bus 3) :
    (mux8Way16 p v s).getMsbD k =
      mux8Way p ⟨v.a.getMsbD k, v.b.getMsbD k, v.c.getMsbD k, v.d.getMsbD k, v.e.getMsbD k, v.f.getMsbD k,
        v.g.getMsbD k, v.h.getMsbD k⟩ s := by
  simp only [mux8Way16, mux8Way, mux16_getMsbD p hk, mux4Way16_getMsbD p hk]

theorem dMux16_a_getMsbD (i : Bus 16) (s : Bit) : (dMux16 p i s).a.getMsbD k = (dMux p (i.getMsbD k) s).a := by
  simp [dMux16, dMux, hk]

theorem dMux16_b_getMsbD (i : Bus 16) (s : Bit) : (dMux16 p i s).b.getMsbD k = (dMux p (i.getMsbD k) s).b := by
  simp [dMux16, dMux, hk]

theorem dMux4Way16_getMsbD (i : Bus 16) (s : Bus 2) :
    (dMux4Way16 p i s).toList.map (·.getMsbD k) = (dMux4Way p (i.getMsbD k) s).toList := by
  simp only [dMux4Way16, dMux4Way, Out4.toList, List.map_cons, List.map_nil, dMux16_a_getMsbD p hk,
    dMux16_b_getMsbD p hk]

theorem dMux8Way16_getMsbD (i : Bus 16) (s : Bus 3) :
    (dMux8Way16 p i s).toList.map (·.getMsbD k) = (dMux8Way p (i.getMsbD k) s).toList := by
  simp only [dMux8Way16, dMux8Way, dMux4Way16, dMux4Way, Out8.toList, List.map_cons, List.map_nil,
    dMux16_a_getMsbD p hk, dMux16_b_getMsbD p hk]

end

/-! ### Which input or output is selected, under the contract of the primitive -/

/-- A list that has `x` at index `k` and `zero` at every other, read by index. -/
theorem getElem?_of_eq_set_replicate {α : Type} {l : List α} {x zero : α} {k m n : Nat}
    (h : l = (List.replicate m zero).set k x) (hn : n < m) : l[n]? = some (if n = k then x else zero) := by
  subst h
  by_cases hk : n = k
  · simp [← hk, hn]
  · simp [hn, hk, Ne.symm hk]

section
variable {α : Type} {o : Out2 α} {s : Bit} {x zero : α} (h : o = if s then ⟨zero, x⟩ else ⟨x, zero⟩)
include h

/-- The two outputs of a demultiplexer as a pair. -/
theorem pair_of_eq_ite : (o.a, o.b) = if s then (zero, x) else (x, zero) := by
  subst h
  cases s <;> rfl

/-- Routing each output of a demultiplexer to number `k` of `m` routes its input to number `m*s + k` of `2*m`. -/
theorem set_append_set_of_eq_ite {k m : Nat} (hk : k < m) :
    (List.replicate m zero).set k o.a ++ (List.replicate m zero).set k o.b =
      (List.replicate (m + m) zero).set (m * s.toNat + k) x := by
  subst h
  rw [← List.replicate_append_replicate]
  cases s with
  | false => simp [List.set_append_left, hk, -List.replicate_append_replicate]
  | true => simp [List.set_append_right, -List.replicate_append_replicate]

end

section
variable {p : Prim} (h : Contract p)
include h

theorem mux4Way16_selects (a b c d : Bus 16) (s : Bus 2) :
    [a, b, c, d][s.toNat]? = some (mux4Way16 p a b c d s) := by
  rw [toNat_bus2, mux4Way16_contract h]

theorem mux8Way16_selects (v : Out8 (Bus 16)) (s : Bus 3) : v.toList[s.toNat]? = some (mux8Way16 p v s) := by
  rw [toNat_bus3, Out8.toList, mux8Way16_contract h]

theorem mux4Way_selects (a b c d : Bit) (s : Bus 2) : [a, b, c, d][s.toNat]? = some (mux4Way p a b c d s) := by
  have hbus := mux4Way16_selects h (fanout16 a) (fanout16 b) (fanout16 c) (fanout16 d) s
  have hbit := congrArg (Option.map (·.getMsbD 0)) hbus
  simpa [← List.getElem?_map, mux4Way16_getMsbD] using hbit

theorem mux8Way_selects (v : Out8 Bit) (s : Bus 3) : v.toList[s.toNat]? = some (mux8Way p v s) := by
  have hbus := mux8Way16_selects h ⟨fanout16 v.a, fanout16 v.b, fanout16 v.c, fanout16 v.d, fanout16 v.e,
    fanout16 v.f, fanout16 v.g, fanout16 v.h⟩ s
  have hbit := congrArg (Option.map (·.getMsbD 0)) hbus
  simpa [← List.getElem?_map, Out8.toList, mux8Way16_getMsbD] using hbit

theorem dMux4Way16_routes (i : Bus 16) (s : Bus 2) :
    (dMux4Way16 p i s).toList = (List.replicate 4 ZERO16).set s.toNat i := by
  simp only [dMux4Way16, dMux16_contract h, toNat_bus2]
  cases s.getMsbD 0 <;> cases s.getMsbD 1 <;> rfl

/-- The half that `s[0]` does not choose is fed `ZERO16`, so its four outputs are `ZERO16`. -/
theorem dMux8Way16_routes (i : Bus 16) (s : Bus 3) :
    (dMux8Way16 p i s).toList = (List.replicate 8 ZERO16).set s.toNat i := by
  have htrees : (dMux8Way16 p i s).toList = (dMux4Way16 p (dMux16 p i (s.getMsbD 0)).a (busSlice 2 1 s)).toList ++
      (dMux4Way16 p (dMux16 p i (s.getMsbD 0)).b (busSlice 2 1 s)).toList := rfl
  rw [htrees, dMux4Way16_routes h, dMux4Way16_routes h, toNat_eq_add_busSlice]
  exact set_append_set_of_eq_ite (dMux16_contract h i (s.getMsbD 0)) (busSlice 2 1 s).isLt

theorem dMux4Way_routes (i : Bit) (s : Bus 2) :
    (dMux4Way p i s).toList = (List.replicate 4 false).set s.toNat i := by
  have hbit := dMux4Way16_getMsbD p (k := 0) (by decide) (fanout16 i) s
  simpa [dMux4Way16_routes h] using hbit.symm

theorem dMux8Way_routes (i : Bit) (s : Bus 3) :
    (dMux8Way p i s).toList = (List.replicate 8 false).set s.toNat i := by
  have hbit := dMux8Way16_getMsbD p (k := 0) (by decide) (fanout16 i) s
  simpa [dMux8Way16_routes h] using hbit.symm

end

/-! ### What an instance of a selector settles -/

section
variable {s : State} (d : Name)

section
variable {a b sel : Src} {z : Bit} (hs : s.readBit sel = .ok z)
include hs

theorem exec_mux {x y : Bit} (ha : s.readBit a = .ok x) (hb : s.readBit b = .ok y) :
    exec (.mux d a b sel) s = .next (s.settle d [(.out, .bit (mux s.prim x y z))]) :=
  eval3_next (f := fun p x y z => [(.out, .bit (mux p x y z))]) ha hb hs

theorem exec_mux16 {x y : Bus 16} (ha : s.readBus16 a = .ok x) (hb : s.readBus16 b = .ok y) :
    exec (.mux16 d a b sel) s = .next (s.settle d [(.out, .bus16 (mux16 s.prim x y z))]) :=
  eval3_next (f := fun p x y z => [(.out, .bus16 (mux16 p x y z))]) ha hb hs

theorem exec_dMux {x : Bit} (ha : s.readBit a = .ok x) :
    exec (.dMux d a sel) s = .next (s.settle d (outputs2 .bit (dMux s.prim x z))) :=
  eval2_next (f := fun p x z => outputs2 .bit (dMux p x z)) ha hs

theorem exec_dMux16 {x : Bus 16} (ha : s.readBus16 a = .ok x) :
    exec (.dMux16 d a sel) s = .next (s.settle d (outputs2 .bus16 (dMux16 s.prim x z))) :=
  eval2_next (f := fun p x z => outputs2 .bus16 (dMux16 p x z)) ha hs

end

section
variable {a sel : Src} {z : Bus 2} (hs : s.readBus2 sel = .ok z)
include hs

theorem exec_mux4Way {b c e : Src} {va vb vc vd : Bit} (ha : s.readBit a = .ok va) (hb : s.readBit b = .ok vb)
    (hc : s.readBit c = .ok vc) (he : s.readBit e = .ok vd) :
    exec (.mux4Way d a b c e sel) s = .next (s.settle d [(.out, .bit (mux4Way s.prim va vb vc vd z))]) :=
  evalMux4_next (f := fun p x y z w k => [(.out, .bit (mux4Way p x y z w k))]) ha hb hc he hs

theorem exec_dMux4Way {x : Bit} (ha : s.readBit a = .ok x) :
    exec (.dMux4Way d a sel) s = .next (s.settle d (outputs4 .bit (dMux4Way s.prim x z))) :=
  eval2_next (f := fun p x z => outputs4 .bit (dMux4Way p x z)) ha hs

theorem exec_dMux4Way16 {x : Bus 16} (ha : s.readBus16 a = .ok x) :
    exec (.dMux4Way16 d a sel) s = .next (s.settle d (outputs4 .bus16 (dMux4Way16 s.prim x z))) :=
  eval2_next (f := fun p x z => outputs4 .bus16 (dMux4Way16 p x z)) ha hs

end

section
variable {a sel : Src} {z : Bus 3} (hs : s.readBus3 sel = .ok z)
include hs

theorem exec_mux8Way {b c e g h k l : Src} {v : Out8 Bit} (ha : s.readBit a = .ok v.a) (hb : s.readBit b = .ok v.b)
    (hc : s.readBit c = .ok v.c) (he : s.readBit e = .ok v.d) (hg : s.readBit g = .ok v.e)
    (hh : s.readBit h = .ok v.f) (hk : s.readBit k = .ok v.g) (hl : s.readBit l = .ok v.h) :
    exec (.mux8Way d a b c e g h k l sel) s = .next (s.settle d [(.out, .bit (mux8Way s.prim v z))]) :=
  evalMux8_next (f := fun p v z => [(.out, .bit (mux8Way p v z))]) ha hb hc he hg hh hk hl hs

theorem exec_dMux8Way {x : Bit} (ha : s.readBit a = .ok x) :
    exec (.dMux8Way d a sel) s = .next (s.settle d (outputs8 .bit (dMux8Way s.prim x z))) :=
  eval2_next (f := fun p x z => outputs8 .bit (dMux8Way p x z)) ha hs

theorem exec_dMux8Way16 {x : Bus 16} (ha : s.readBus16 a = .ok x) :
    exec (.dMux8Way16 d a sel) s = .next (s.settle d (outputs8 .bus16 (dMux8Way16 s.prim x z))) :=
  eval2_next (f := fun p x z => outputs8 .bus16 (dMux8Way16 p x z)) ha hs

end

end

/-! ### The selector convention -/

/-- The convention is what the check looks at first. -/
theorem check_of_otherConvention {s : State} (h : s.netlist.convention = .other) :
    s.check = some .otherSelectorConvention := if_pos h

end Sys2Proof.Machine

namespace Sys2Proof.Proofs

open Sys2Proof.Machine

/-- Settles O13: `mux` and `dMux` are the compositions of their rules. -/
theorem twoWaySelectorsOnBits : Obligations.TwoWaySelectorsOnBits := by
  constructor
  · intro s d a b c x y z ha hb hc
    exact ⟨_, rfl, exec_mux d hc ha hb, fun hnand => mux_contract hnand x y z⟩
  · intro s d a c x z ha hc
    exact ⟨_, _, rfl, rfl, exec_dMux d hc ha, fun hnand => pair_of_eq_ite (dMux_contract hnand x z)⟩

/-- Settles O14: `mux16` and `dMux16` are the compositions of their rules, and `mux16` is `mux` at every position. -/
theorem twoWaySelectorsOnBuses : Obligations.TwoWaySelectorsOnBuses := by
  constructor
  · intro s d a b c x y z ha hb hc
    exact ⟨_, rfl, exec_mux16 d hc ha hb, fun k hk => mux16_getMsbD s.prim hk x y z,
      fun hnand => mux16_contract hnand x y z⟩
  · intro s d a c x z ha hc
    exact ⟨_, _, rfl, rfl, exec_dMux16 d hc ha, fun hnand => pair_of_eq_ite (dMux16_contract hnand x z)⟩

/-- Settles O15: on buses the tree selects by `2*s[0] + s[1]`, which is `uint(s)`, and on Bits it is a position of that
tree. -/
theorem fourWayMultiplexersSelectByNumber : Obligations.FourWayMultiplexersSelectByNumber := by
  constructor
  · intro s d a b c e k va vb vc vd vs ha hb hc he hk
    exact ⟨_, rfl, exec_mux4Way16 d ha hb hc he hk, fun hnand => mux4Way16_selects hnand va vb vc vd vs⟩
  · intro s d a b c e k va vb vc vd vs ha hb hc he hk
    exact ⟨_, rfl, exec_mux4Way d hk ha hb hc he, fun hnand => mux4Way_selects hnand va vb vc vd vs⟩

/-- Settles O16: the outputs are zero but for the input at index `uint(s)`. -/
theorem fourWayDemultiplexersRouteByNumber : Obligations.FourWayDemultiplexersRouteByNumber := by
  constructor
  · intro s d a k x vs ha hk
    exact ⟨_, _, _, rfl, rfl, rfl, exec_dMux4Way d hk ha,
      fun hnand _ hn => getElem?_of_eq_set_replicate (dMux4Way_routes hnand x vs) hn⟩
  · intro s d a k x vs ha hk
    exact ⟨_, _, _, rfl, rfl, rfl, exec_dMux4Way16 d hk ha,
      fun hnand _ hn => getElem?_of_eq_set_replicate (dMux4Way16_routes hnand x vs) hn⟩

/-- Settles O17: on buses the tree selects by `4*s[0] + 2*s[1] + s[2]`, which is `uint(s)`, and on Bits it is a position
of that tree. -/
theorem eightWayMultiplexersSelectByNumber : Obligations.EightWayMultiplexersSelectByNumber := by
  constructor
  · intro s d a b c e g h i j k w vs ha hb hc he hg hh hi hj hk
    exact ⟨_, rfl, exec_mux8Way16 d ha hb hc he hg hh hi hj hk, fun hnand => mux8Way16_selects hnand w vs⟩
  · intro s d a b c e g h i j k w vs ha hb hc he hg hh hi hj hk
    exact ⟨_, rfl, exec_mux8Way d hk ha hb hc he hg hh hi hj, fun hnand => mux8Way_selects hnand w vs⟩

/-- Settles O18: the outputs are zero but for the input at index `uint(s)`. -/
theorem eightWayDemultiplexersRouteByNumber : Obligations.EightWayDemultiplexersRouteByNumber := by
  constructor
  · intro s d a k x vs ha hk
    exact ⟨_, _, _, rfl, rfl, rfl, exec_dMux8Way d hk ha,
      fun hnand _ hn => getElem?_of_eq_set_replicate (dMux8Way_routes hnand x vs) hn⟩
  · intro s d a k x vs ha hk
    exact ⟨_, _, _, rfl, rfl, rfl, exec_dMux8Way16 d hk ha,
      fun hnand _ hn => getElem?_of_eq_set_replicate (dMux8Way16_routes hnand x vs) hn⟩

/-- Settles O43: the step is the refusal of the check. -/
theorem otherConventionIsRefused : Obligations.OtherConventionIsRefused := by
  intro s h
  rw [step, check_of_otherConvention h]

end Sys2Proof.Proofs
end

section
/-! PROOFS. 43_arith.md: what the adders settle for every primitive, and that they add under the contract. -/

namespace Sys2Proof.Machine

/-! ### What an instance of an adder settles -/

section
variable {s : State} {a b : Src} (d : Name)

theorem exec_halfAdder {x y : Bit} (ha : s.readBit a = .ok x) (hb : s.readBit b = .ok y) :
    exec (.halfAdder d a b) s = .next (s.settle d (outputsSumCarry (halfAdder s.prim x y))) :=
  eval2_next (f := fun p x y => outputsSumCarry (halfAdder p x y)) ha hb

theorem exec_fullAdder {c : Src} {x y z : Bit} (ha : s.readBit a = .ok x) (hb : s.readBit b = .ok y)
    (hc : s.readBit c = .ok z) :
    exec (.fullAdder d a b c) s = .next (s.settle d (outputsSumCarry (fullAdder s.prim x y z))) :=
  eval3_next (f := fun p x y z => outputsSumCarry (fullAdder p x y z)) ha hb hc

theorem exec_add16 {x y : Bus 16} (ha : s.readBus16 a = .ok x) (hb : s.readBus16 b = .ok y) :
    exec (.add16 d a b) s = .next (s.settle d [(.out, .bus16 (add16 s.prim x y))]) :=
  eval2_next (f := fun p x y => [(.out, .bus16 (add16 p x y))]) ha hb

theorem exec_inc16 {x : Bus 16} (ha : s.readBus16 a = .ok x) :
    exec (.inc16 d a) s = .next (s.settle d [(.out, .bus16 (add16 s.prim x ONE16))]) :=
  eval1_next (f := fun p x => [(.out, .bus16 (inc16 p x))]) ha

end

/-! ### The ripple of the carry, for every primitive -/

section
variable (p : Prim) (a b : Bus 16)

/-- The carry out of the adder at bus position `i`, `c_i` of R105. -/
def rippleCarry (i : Nat) : Bit := (addColumn p a b (15 - i)).carry

theorem add16_getMsbD {i : Nat} (hi : i < 16) : (add16 p a b).getMsbD i = (addColumn p a b (15 - i)).sum :=
  busOfFn_getMsbD 16 _ i hi

/-- Position 15 and its carry are a half adder's. -/
theorem halfAdder_add16 :
    halfAdder p (a.getMsbD 15) (b.getMsbD 15) = ⟨(add16 p a b).getMsbD 15, rippleCarry p a b 15⟩ := by
  rw [add16_getMsbD p a b (by decide)]
  rfl

/-- The column of a position before 15 takes its carry from the position after it. -/
theorem addColumn_eq_fullAdder {i : Nat} (hi : i < 15) :
    addColumn p a b (15 - i) = fullAdder p (a.getMsbD i) (b.getMsbD i) (rippleCarry p a b (i + 1)) := by
  have hcolumn : 15 - i = 14 - i + 1 := by omega
  have hposition : 14 - (14 - i) = i := by omega
  have hbefore : 15 - (i + 1) = 14 - i := by omega
  rw [hcolumn, addColumn, hposition, rippleCarry, hbefore]

/-- Each position before 15 and its carry are a full adder's. -/
theorem fullAdder_add16 {i : Nat} (hi : i < 15) :
    fullAdder p (a.getMsbD i) (b.getMsbD i) (rippleCarry p a b (i + 1)) =
      ⟨(add16 p a b).getMsbD i, rippleCarry p a b i⟩ := by
  rw [add16_getMsbD p a b (by omega), ← addColumn_eq_fullAdder p a b hi, rippleCarry]

end

/-! ### The sums under the contract -/

section
variable {p : Prim} (h : Contract p)
include h

theorem toNat_halfAdder (a b : Bit) :
    2 * (halfAdder p a b).carry.toNat + (halfAdder p a b).sum.toNat = a.toNat + b.toNat := by
  rw [halfAdder_contract h]
  cases a <;> cases b <;> rfl

theorem toNat_fullAdder (a b c : Bit) :
    2 * (fullAdder p a b c).carry.toNat + (fullAdder p a b c).sum.toNat = a.toNat + b.toNat + c.toNat := by
  rw [fullAdder_contract h]
  cases a <;> cases b <;> cases c <;> rfl

theorem toNat_add16 (a b : Bus 16) : (add16 p a b).toNat = (a.toNat + b.toNat) % 65536 := by
  rw [add16_contract h, BitVec.toNat_add]

theorem add16_eq_ofInt (a b : Bus 16) : add16 p a b = BitVec.ofInt 16 (a.toInt + b.toInt) := by
  rw [add16_contract h, BitVec.ofInt_add, BitVec.ofInt_toInt, BitVec.ofInt_toInt]

end

end Sys2Proof.Machine

namespace Sys2Proof.Proofs

open Sys2Proof.Machine

/-- Settles O20: `halfAdder` and `fullAdder` are the compositions of their rules. -/
theorem oneBitAddersAddTheirBits : Obligations.OneBitAddersAddTheirBits := by
  constructor
  · intro s d a b x y ha hb
    exact ⟨_, _, rfl, rfl, exec_halfAdder d ha hb, fun hnand => toNat_halfAdder hnand x y⟩
  · intro s d a b c x y z ha hb hc
    exact ⟨_, _, rfl, rfl, exec_fullAdder d ha hb hc, fun hnand => toNat_fullAdder hnand x y z⟩

/-- Settles O21: the carries are those of the columns of `add16`, which under the contract is addition of words. -/
theorem adderRipplesAndWraps : Obligations.AdderRipplesAndWraps :=
  fun s d _ _ x y ha hb =>
    ⟨add16 s.prim x y, rippleCarry s.prim x y, exec_add16 d ha hb, halfAdder_add16 s.prim x y,
      fun _ hi => fullAdder_add16 s.prim x y hi,
      fun hnand => ⟨toNat_add16 hnand x y, add16_eq_ofInt hnand x y⟩⟩

/-- Settles O22: both rows settle `add16` of `a` and `ONE16`. -/
theorem incrementerAddsOne : Obligations.IncrementerAddsOne := by
  intro s d a x ha
  have hone : s.readBus16 (.tie (.bus16 ONE16)) = .ok ONE16 := rfl
  exact ⟨(exec_inc16 d ha).trans (exec_add16 d ha hone).symm, add16 s.prim x ONE16, exec_inc16 d ha,
    fun hnand => toNat_add16 hnand x ONE16⟩

end Sys2Proof.Proofs
end

section
/-! PROOFS. 44_alu.md: what every row of the ALU settles for every primitive, the words and the integers the decode gives
under the contract, and the value of each control word. -/

namespace Sys2Proof.Machine

/-! ### The result and the flags under the contract -/

/-- The result of the decode on words: R108's steps 3 and 4 on the operands as R109 gives them. -/
def decodedResult (x y : Bus 16) (w : ControlWord) : Bus 16 :=
  let x2 := zeroNegate x w.zx w.nx
  let y2 := zeroNegate y w.zy w.ny
  let o1 := if w.f then x2 + y2 else x2 &&& y2
  if w.no then ~~~o1 else o1

theorem flagZr_eq_true_iff_getMsbD {p : Prim} (h : Contract p) (v : Bus 16) :
    flagZr p v = true ↔ ∀ k < 16, v.getMsbD k = false := by
  rw [flagZr_contract h]
  constructor
  · rintro rfl k -
    exact BitVec.getMsbD_zero
  · intro hzero
    exact bus_ext fun k hk => (hzero k hk).trans BitVec.getMsbD_zero.symm

/-- A result is not zero and negative at once. -/
theorem not_flagZr_and_flagNg {p : Prim} (h : Contract p) (v : Bus 16) : ¬(flagZr p v = true ∧ flagNg v = true) := by
  rw [flagZr_contract h, flagNg_eq_true]
  rintro ⟨rfl, hneg⟩
  exact absurd hneg (by decide)

section
variable {p : Prim} (h : Contract p) (x y : Bus 16) (w : ControlWord)
include h

theorem aluOperand_eq_zeroNegate (z n : Bit) : aluOperand p x z n = zeroNegate x z n := by
  have hones : ~~~ZERO16 = 0xFFFF#16 := by decide
  rw [aluOperand_contract h]
  cases z <;> cases n
  · rfl
  · rfl
  · rfl
  · exact hones

theorem aluResult_eq_decodedResult : aluResult p x y w = decodedResult x y w := by
  simp only [aluResult_contract h, aluOperand_eq_zeroNegate h, decodedResult]

theorem outputsAlu_alu : outputsAlu (alu p x y w) = aluOutputs (decodedResult x y w) := by
  have hzr (v : Bus 16) : flagZr p v = decide (v = ZERO16) := by
    rw [Bool.eq_iff_iff, flagZr_contract h, decide_eq_true_eq]
  have hng (v : Bus 16) : flagNg v = decide (v.toInt < 0) := by
    rw [Bool.eq_iff_iff, flagNg_eq_true, decide_eq_true_eq]
  rw [alu, outputsAlu, hzr, hng, aluResult_eq_decodedResult h, aluOutputs]

end

/-! ### The decode on integers -/

section
variable (x y : Bus 16) (w : ControlWord)

theorem toNat_zeroNegate (z n : Bit) : (zeroNegate x z n).toNat = operandValue x.toNat z n := by
  cases z <;> cases n
  · rfl
  · exact BitVec.toNat_not
  · rfl
  · rfl

theorem toNat_decodedResult : (decodedResult x y w).toNat = resultValue x.toNat y.toNat w := by
  obtain ⟨zx, nx, zy, ny, f, no⟩ := w
  cases f <;> cases no <;>
    simp only [decodedResult, resultValue, if_true, Bool.false_eq_true, if_false, BitVec.toNat_not, BitVec.toNat_and,
      BitVec.toNat_add, toNat_zeroNegate]

theorem ofNat_resultValue : BitVec.ofNat 16 (resultValue x.toNat y.toNat w) = decodedResult x y w := by
  rw [← toNat_decodedResult, BitVec.ofNat_toNat, BitVec.setWidth_eq]

end

/-! ### What an instance of the ALU settles -/

section
variable {s : State} {a b : Src} {x y : Bus 16} {w : ControlWord} (d : Name)

theorem exec_alu {c1 c2 c3 c4 c5 c6 : Src} (ha : s.readBus16 a = .ok x) (hb : s.readBus16 b = .ok y)
    (h1 : s.readBit c1 = .ok w.zx) (h2 : s.readBit c2 = .ok w.nx) (h3 : s.readBit c3 = .ok w.zy)
    (h4 : s.readBit c4 = .ok w.ny) (h5 : s.readBit c5 = .ok w.f) (h6 : s.readBit c6 = .ok w.no) :
    exec (.alu d a b c1 c2 c3 c4 c5 c6) s = .next (s.settle d (outputsAlu (alu s.prim x y w))) :=
  evalAlu_next (f := fun p vx vy w => outputsAlu (alu p vx vy w)) ha hb h1 h2 h3 h4 h5 h6

/-- Control Bits tied to a word always read, so `ALU` evaluates as a row of that word, refusals included. -/
theorem exec_aluWord (w : ControlWord) (d : Name) (a b : Src) (s : State) :
    exec (Instr.aluWord d w a b) s = evalAluWord w d a b s := rfl

theorem evalAluWord_next (hnand : Contract s.prim) (ha : s.readBus16 a = .ok x) (hb : s.readBus16 b = .ok y) :
    evalAluWord w d a b s = .next (s.settle d (aluOutputs (decodedResult x y w))) := by
  rw [← outputsAlu_alu hnand]
  exact eval2_next (f := fun p vx vy => outputsAlu (alu p vx vy w)) ha hb

end

/-- A component with the output ports of the ALU is the ALU or a row of a control word, and settles what the ALU gives on
some operands and control word. -/
theorem exec_eq_next_of_aluPorts {i : Instr} {s t : State}
    (hports : i.comp.outPorts = [(.out, .bus16), (.zr, .bit), (.ng, .bit)]) (h : exec i s = .next t) :
    ∃ x y w, t = s.settle i.name (outputsAlu (alu s.prim x y w)) := by
  have hrow {w : ControlWord} {d : Name} {a b : Src} (h : evalAluWord w d a b s = .next t) :
      ∃ x y w, t = s.settle d (outputsAlu (alu s.prim x y w)) := by
    obtain ⟨x, y, -, -, ht⟩ := (eval2_eq_next (f := fun p vx vy => outputsAlu (alu p vx vy w))).mp h
    exact ⟨x, y, w, ht⟩
  cases i with
  | alu =>
    obtain ⟨x, y, w, -, -, -, -, -, -, -, -, ht⟩ :=
      (evalAlu_eq_next (f := fun p vx vy w => outputsAlu (alu p vx vy w))).mp h
    exact ⟨x, y, w, ht⟩
  | aluZero | aluOne | aluNegOne | aluX | aluY | aluNotX | aluNotY | aluNegX | aluNegY | aluXPlusOne | aluYPlusOne
  | aluXMinusOne | aluYMinusOne | aluXPlusY | aluXMinusY | aluYMinusX | aluXAndY | aluXOrY => exact hrow h
  | _ => cases hports

/-! ### From the value of a control word to its rows -/

/-- A row whose meaning is the ALU with the word `w` tied off computes what the decode gives for `w`; the packing and the
meaning of each row hold by definition. -/
theorem canonicalWord_of_decodedResult {w : ControlWord} {n : Nat} {mkInstr : Name → Src → Src → Instr}
    {f : Bus 16 → Bus 16 → Bus 16} (hvalue : ∀ x y, decodedResult x y w = f x y) (hpack : w.pack = n := by rfl)
    (hrow : ∀ d a b s, exec (mkInstr d a b) s = evalAluWord w d a b s := by intros; rfl) :
    CanonicalWord w n mkInstr f := by
  refine ⟨hpack, fun s d a b => (hrow d a b s).trans (exec_aluWord w d a b s).symm, ?_⟩
  intro s d a b x y hnand ha hb
  rw [hrow, evalAluWord_next d hnand ha hb, hvalue]

theorem packedWord_of_decodedResult {n : Nat} {f : Bus 16 → Bus 16 → Bus 16}
    (hvalue : ∀ x y, decodedResult x y (ControlWord.unpack n) = f x y) : PackedWord n f := by
  intro s d a b x y hnand ha hb
  rw [exec_aluWord, evalAluWord_next d hnand ha hb, hvalue]

/-! ### The value of each control word -/

/-- The sum and the AND are commutative, so exchanging the operands with their control Bits changes nothing. -/
theorem decodedResult_comm (x y : Bus 16) (zx nx zy ny f no : Bit) :
    decodedResult x y ⟨zx, nx, zy, ny, f, no⟩ = decodedResult y x ⟨zy, ny, zx, nx, f, no⟩ := by
  rw [decodedResult, decodedResult, BitVec.add_comm, BitVec.and_comm]

/-- What the decode gives for a word, it gives for the word of the exchanged operands on the exchanged operands. -/
theorem decodedResult_exchange {zx nx zy ny f no : Bit} {g : Bus 16 → Bus 16 → Bus 16}
    (h : ∀ x y, decodedResult x y ⟨zx, nx, zy, ny, f, no⟩ = g x y) (x y : Bus 16) :
    decodedResult x y ⟨zy, ny, zx, nx, f, no⟩ = g y x :=
  (decodedResult_comm x y zy ny zx nx f no).trans (h y x)

section
variable (x y : Bus 16)

/-- An operand zeroed and then negated is `0xFFFF`: the AND with it passes the other operand on. -/
@[simp] theorem and_ones : x &&& 0xFFFF#16 = x := BitVec.and_allOnes

@[simp] theorem ones_and : 0xFFFF#16 &&& x = x := BitVec.allOnes_and

/-- As an integer `0xFFFF` is -1. -/
theorem add_ones : x + 0xFFFF#16 = x - 1#16 := (BitVec.sub_eq_add_neg x 1#16).symm

theorem not_add : ~~~(x + y) = ~~~x - y := by
  rw [BitVec.not_eq_neg_add, BitVec.not_eq_neg_add]
  ring

/-- Negating an operand of a sum and the sum gives the difference. -/
theorem not_not_add : ~~~(~~~x + y) = x - y := by
  rw [not_add, BitVec.not_not]

theorem ofInt_sub (a b : Int) : BitVec.ofInt 16 (a - b) = BitVec.ofInt 16 a - BitVec.ofInt 16 b := by
  rw [Int.sub_eq_add_neg, BitVec.ofInt_add, BitVec.ofInt_neg, BitVec.sub_eq_add_neg]

theorem decodedResult_x : decodedResult x y ⟨false, false, true, true, false, false⟩ = x := and_ones x

theorem decodedResult_notX : decodedResult x y ⟨false, false, true, true, false, true⟩ = ~~~x :=
  congrArg (~~~·) (and_ones x)

theorem decodedResult_negX :
    decodedResult x y ⟨false, false, true, true, true, true⟩ = onIntegers (fun x _ => -x) x y :=
  calc ~~~(x + 0xFFFF#16)
    _ = -(x - 1#16) - 1#16 := by rw [add_ones, BitVec.not_eq_neg_add]
    _ = -x := by ring
    _ = BitVec.ofInt 16 (-x.toInt) := by rw [BitVec.ofInt_neg, BitVec.ofInt_toInt]

theorem decodedResult_xPlusOne :
    decodedResult x y ⟨false, true, true, true, true, true⟩ = onIntegers (fun x _ => x + 1) x y :=
  calc ~~~(~~~x + 0xFFFF#16)
    _ = x - 0xFFFF#16 := not_not_add x _
    _ = x + 1#16 := BitVec.sub_eq_add_neg x _
    _ = BitVec.ofInt 16 (x.toInt + 1) := by rw [BitVec.ofInt_add, BitVec.ofInt_toInt]; rfl

theorem decodedResult_xMinusOne :
    decodedResult x y ⟨false, false, true, true, true, false⟩ = onIntegers (fun x _ => x - 1) x y :=
  calc x + 0xFFFF#16
    _ = x - 1#16 := add_ones x
    _ = BitVec.ofInt 16 (x.toInt - 1) := by rw [ofInt_sub, BitVec.ofInt_toInt]; rfl

theorem decodedResult_xPlusY :
    decodedResult x y ⟨false, false, false, false, true, false⟩ = onIntegers (fun x y => x + y) x y :=
  calc x + y
    _ = BitVec.ofInt 16 (x.toInt + y.toInt) := by rw [BitVec.ofInt_add, BitVec.ofInt_toInt, BitVec.ofInt_toInt]

theorem decodedResult_xMinusY :
    decodedResult x y ⟨false, true, false, false, true, true⟩ = onIntegers (fun x y => x - y) x y :=
  calc ~~~(~~~x + y)
    _ = x - y := not_not_add x y
    _ = BitVec.ofInt 16 (x.toInt - y.toInt) := by rw [ofInt_sub, BitVec.ofInt_toInt, BitVec.ofInt_toInt]

theorem decodedResult_xOrY : decodedResult x y ⟨false, true, false, true, false, true⟩ = x ||| y :=
  calc ~~~(~~~x &&& ~~~y)
    _ = x ||| y := by rw [BitVec.not_and, BitVec.not_not, BitVec.not_not]

theorem decodedResult_one :
    decodedResult x y ⟨true, true, true, true, true, true⟩ = onIntegers (fun _ _ => 1) x y := by
  have hvalue : ~~~(0xFFFF#16 + 0xFFFF#16) = BitVec.ofInt 16 1 := by decide
  exact hvalue

theorem not_eq_onIntegers : ~~~x = onIntegers (fun x _ => -x - 1) x x := by
  rw [onIntegers, ofInt_sub, BitVec.ofInt_neg, BitVec.ofInt_toInt, BitVec.not_eq_neg_add]
  rfl

end

end Sys2Proof.Machine

namespace Sys2Proof.Proofs

open Sys2Proof.Machine

/-- Settles O23: `alu` is the composition of R108, and under the contract each of its steps is the operation on words. -/
theorem aluFollowsTheDecode : Obligations.AluFollowsTheDecode := by
  intro s d a b c1 c2 c3 c4 c5 c6 x y w ha hb h1 h2 h3 h4 h5 h6
  have hexec := exec_alu d ha hb h1 h2 h3 h4 h5 h6
  refine ⟨_, _, _, _, _, aluResult s.prim x y w, rfl, rfl, rfl, rfl, rfl, rfl, hexec, fun hnand => ⟨?_, ?_⟩⟩
  · rw [aluResult_eq_decodedResult hnand, toNat_decodedResult]
  · rw [hexec, outputsAlu_alu hnand, aluResult_eq_decodedResult hnand]

/-- Settles O24: `decodedResult` reads the operands only as `zeroNegate` gives them, and `aluOperand` gives the same. -/
theorem zeroingComesBeforeNegation : Obligations.ZeroingComesBeforeNegation := by
  intro s d a b c1 c2 c3 c4 c5 c6 x y w hnand ha hb h1 h2 h3 h4 h5 h6
  have hexec := exec_alu d ha hb h1 h2 h3 h4 h5 h6
  rw [outputsAlu_alu hnand] at hexec
  exact ⟨zeroNegate x w.zx w.nx, zeroNegate y w.zy w.ny, _, rfl, rfl, rfl, hexec⟩

/-- Settles O25: every row with these output ports settles the outputs of `alu`, whose flags are read from its result. -/
theorem flagsAreReadFromTheFinalOutput : Obligations.FlagsAreReadFromTheFinalOutput := by
  intro i s t hnand hports h
  obtain ⟨x, y, w, rfl⟩ := exec_eq_next_of_aluPorts hports h
  exact ⟨aluResult s.prim x y w, _, _, storeGet_put_same i.name _ s.settled, rfl,
    flagZr_eq_true_iff_getMsbD hnand _, rfl, flagNg_eq_true _, not_flagZr_and_flagNg hnand _⟩

/-- Settles O26: both operands are constant, so the decode is a sum of constants. -/
theorem constantWordsGiveConstants : Obligations.ConstantWordsGiveConstants :=
  ⟨canonicalWord_of_decodedResult fun _ _ => rfl, canonicalWord_of_decodedResult decodedResult_one,
    canonicalWord_of_decodedResult fun _ _ => rfl⟩

/-- Settles O27: the words of `y` are those of `x` with the operands exchanged. -/
theorem passNotAndNegateWords : Obligations.PassNotAndNegateWords :=
  ⟨canonicalWord_of_decodedResult decodedResult_x,
    canonicalWord_of_decodedResult (decodedResult_exchange decodedResult_x),
    canonicalWord_of_decodedResult decodedResult_notX,
    canonicalWord_of_decodedResult (decodedResult_exchange decodedResult_notX),
    canonicalWord_of_decodedResult decodedResult_negX,
    canonicalWord_of_decodedResult (decodedResult_exchange decodedResult_negX), not_eq_onIntegers⟩

/-- Settles O28: the words of `y` are those of `x` with the operands exchanged. -/
theorem incrementAndDecrementWords : Obligations.IncrementAndDecrementWords :=
  ⟨canonicalWord_of_decodedResult decodedResult_xPlusOne,
    canonicalWord_of_decodedResult (decodedResult_exchange decodedResult_xPlusOne),
    canonicalWord_of_decodedResult decodedResult_xMinusOne,
    canonicalWord_of_decodedResult (decodedResult_exchange decodedResult_xMinusOne)⟩

/-- Settles O29: a sum or an AND of the operands, negated before, after or not at all. -/
theorem twoOperandWords : Obligations.TwoOperandWords :=
  ⟨canonicalWord_of_decodedResult decodedResult_xPlusY, canonicalWord_of_decodedResult decodedResult_xMinusY,
    canonicalWord_of_decodedResult (decodedResult_exchange decodedResult_xMinusY),
    canonicalWord_of_decodedResult fun _ _ => rfl, canonicalWord_of_decodedResult decodedResult_xOrY⟩

/-- Settles O30: the words that give an operand or a constant add 0 to an operand or AND it with 0 or `0xFFFF`, or have
both operands constant; the others are equations between words, and the last clause is the decode on integers. -/
theorem unnamedWordsComputeTheDecode : Obligations.UnnamedWordsComputeTheDecode := by
  refine ⟨fun n hn => ?x, ?notX, fun n hn => ?y, fun n hn => ?zero, fun n hn => ?ones, ?minusTwo, ?notAnd, ?notAndNot,
    ?notSum, ?andNot, ?notDifference, fun n _ => ?all⟩ <;> refine packedWord_of_decodedResult fun x y => ?_
  case x | y | zero | ones => fin_cases hn <;> simp [decodedResult, zeroNegate, ControlWord.unpack, Nat.testBit]
  case notX | minusTwo => simp [decodedResult, zeroNegate, ControlWord.unpack, Nat.testBit]
  case notAnd | notAndNot | andNot => rfl
  case notSum =>
    calc ~~~(x + y)
      _ = -x - y - 1#16 := by rw [BitVec.not_eq_neg_add]; ring
  case notDifference =>
    calc x + ~~~y
      _ = x - y - 1#16 := by rw [BitVec.not_eq_neg_add]; ring
  case all => exact (ofNat_resultValue x y _).symm

end Sys2Proof.Proofs
end

section
/-! PROOFS. 60_exceptions.md: a well-typed instance always evaluates; the check gives an argument the type of the value
it carries, and refuses exactly what is no netlist of the core. -/

namespace Sys2Proof.Machine

/-! ### A well-typed instance evaluates -/

/-- A value is answered, not a refusal. -/
def Answered {α : Type} (x : Except Refusal α) : Prop := ∃ a, x = .ok a

theorem Answered.ok {α : Type} (a : α) : Answered (.ok a) := ⟨a, rfl⟩

theorem Answered.bind {α β : Type} {x : Except Refusal α} {f : α → Except Refusal β} (hx : Answered x)
    (hf : ∀ a, Answered (f a)) : Answered (x >>= f) := by
  obtain ⟨a, rfl⟩ := hx
  exact hf a

/-- What is answered settles. -/
theorem conclude_of_answered {s : State} {d : Name} {r : Except Refusal Outputs} (h : Answered r) :
    ∃ t, s.conclude d r = .next t := by
  obtain ⟨o, rfl⟩ := h
  exact ⟨_, rfl⟩

/-- The reader of a port of that type reads the argument. -/
def State.ReadsAs (s : State) (a : Src) : Ty → Prop
  | .bit => Answered (s.readBit a)
  | .bus2 => Answered (s.readBus2 a)
  | .bus3 => Answered (s.readBus3 a)
  | .bus4 => Answered (s.readBus4 a)
  | .bus8 => Answered (s.readBus8 a)
  | .bus16 => Answered (s.readBus16 a)

/-- The reader of a port's type reads every argument that carries a value of that type. -/
theorem readsAs_of_read {s : State} {a : Src} {v : Value} (h : s.read a = .ok v) : s.ReadsAs a v.ty := by
  cases v <;>
    exact ⟨_, by simp only [State.readBit, State.readBus2, State.readBus3, State.readBus4, State.readBus8,
      State.readBus16, h]; rfl⟩

/-- The readers of the ports read their arguments, one after the other. -/
def State.ReadsPorts (s : State) : List Ty → List Src → Prop
  | t :: ts, a :: as => s.ReadsAs a t ∧ s.ReadsPorts ts as
  | _, _ => True

theorem readsPorts_of_read {s : State} {ts : List Ty} {l : List Src}
    (h : ∀ (k : Nat) (t : Ty) (a : Src), ts[k]? = some t → l[k]? = some a → ∃ v, s.read a = .ok v ∧ v.ty = t) :
    s.ReadsPorts ts l := by
  induction ts generalizing l with
  | nil => trivial
  | cons t ts ih =>
    cases l with
    | nil => trivial
    | cons a l =>
      obtain ⟨v, hv, rfl⟩ := h 0 t a rfl rfl
      exact ⟨readsAs_of_read hv, ih fun k => h (k + 1)⟩

/-- An instance is evaluated when the readers of its ports read their arguments: by the number of its ports. -/
theorem exec_of_readsPorts {i : Instr} {s : State} (h : s.ReadsPorts i.comp.inPorts i.args) :
    ∃ t, exec i s = .next t := by
  cases i with
  | not | not2 | not3 | not4 | not8 | not16 | fanout16 | or8Way | inc16 =>
    obtain ⟨ha, -⟩ := h
    exact conclude_of_answered (.bind ha fun _ => .ok _)
  | p | and | or | xor | and2 | and3 | and4 | and8 | and16 | or2 | or3 | or4 | or8 | or16 | xor2 | xor3 | xor4 | xor8
  | xor16 | dMux | dMux16 | dMux4Way | dMux4Way16 | dMux8Way | dMux8Way16 | halfAdder | add16 | aluZero | aluOne
  | aluNegOne | aluX | aluY | aluNotX | aluNotY | aluNegX | aluNegY | aluXPlusOne | aluYPlusOne | aluXMinusOne
  | aluYMinusOne | aluXPlusY | aluXMinusY | aluYMinusX | aluXAndY | aluXOrY =>
    obtain ⟨ha, hb, -⟩ := h
    exact conclude_of_answered (.bind ha fun _ => .bind hb fun _ => .ok _)
  | mux | mux16 | fullAdder =>
    obtain ⟨ha, hb, hc, -⟩ := h
    exact conclude_of_answered (.bind ha fun _ => .bind hb fun _ => .bind hc fun _ => .ok _)
  | mux4Way | mux4Way16 =>
    obtain ⟨ha, hb, hc, he, hs, -⟩ := h
    exact conclude_of_answered (.bind ha fun _ => .bind hb fun _ => .bind hc fun _ => .bind he fun _ =>
      .bind hs fun _ => .ok _)
  | mux8Way | mux8Way16 =>
    obtain ⟨ha, hb, hc, he, hg, hh, hk, hl, hs, -⟩ := h
    exact conclude_of_answered (.bind ha fun _ => .bind hb fun _ => .bind hc fun _ => .bind he fun _ =>
      .bind hg fun _ => .bind hh fun _ => .bind hk fun _ => .bind hl fun _ => .bind hs fun _ => .ok _)
  | alu =>
    obtain ⟨hx, hy, hzx, hnx, hzy, hny, hf, hno, -⟩ := h
    exact conclude_of_answered (.bind hx fun _ => .bind hy fun _ => .bind hzx fun _ => .bind hnx fun _ =>
      .bind hzy fun _ => .bind hny fun _ => .bind hf fun _ => .bind hno fun _ => .ok _)

/-! ### The type of an argument and the value it carries -/

/-- A position inside its bus is a Bit; one outside is refused by the check and the evaluation alike. -/
theorem positionType_ty (v : Value) (i : Nat) :
    positionType v.ty i = (fun _ => Ty.bit) <$> valuePosition v i := by
  by_cases hi : i < v.ty.positions
  · obtain ⟨b, hb, -⟩ := valuePosition_eq_ok hi
    rw [positionType, if_pos hi, hb]
    rfl
  · have hnone : (valueBits v)[i]? = none := List.getElem?_eq_none (by rw [valueBits_length]; omega)
    rw [positionType, if_neg hi, valuePosition, hnone]
    rfl

/-- The bus type of a width is that of the bus made of as many Bits, where there is one. -/
theorem ofPositions_length (l : List Bit) : Ty.ofPositions l.length = (busOfBits l).map Value.ty := by
  cases ht : Ty.ofPositions l.length with
  | none => rw [busOfBits, ht, Option.map_none]
  | some t =>
    obtain ⟨u, hu, hty, -⟩ := busOfBits_eq_some ht
    rw [hu, Option.map_some, hty]

/-- A slice has the type of its value; one that is no bus is refused by the check and the evaluation alike. -/
theorem sliceType_ty (v : Value) (i j : Nat) : sliceType v.ty i j = Value.ty <$> valueSlice v i j := by
  unfold sliceType valueSlice
  rw [valueBits_length]
  split
  case isFalse => rfl
  case isTrue hij =>
    have hlen : (((valueBits v).drop i).take (j + 1 - i)).length = j + 1 - i := by
      rw [List.length_take, List.length_drop, valueBits_length]
      omega
    have hty := ofPositions_length (((valueBits v).drop i).take (j + 1 - i))
    rw [hlen] at hty
    rw [hty]
    cases busOfBits (((valueBits v).drop i).take (j + 1 - i)) <;> rfl

/-- The reason of a refusal. -/
def refusal? {α : Type} : Except Refusal α → Option Refusal
  | .ok _ => none
  | .error r => some r

section
variable {s : State}

/-- The check finds wrong with a position what is wrong with reading it. -/
theorem checkBitSrcs_cons {b : BitSrc} (h : ∀ n ∈ bitSrcNets b, s.netType n = Value.ty <$> s.net n)
    (l : List BitSrc) : s.checkBitSrcs (b :: l) = (refusal? (s.readBitSrc b)).or (s.checkBitSrcs l) := by
  cases b with
  | tie x => rfl
  | net n =>
    rw [State.checkBitSrcs, State.bitSrcType, State.readBitSrc, h n (List.mem_singleton_self n)]
    cases s.net n with
    | error r => rfl
    | ok v => cases v <;> rfl
  | pos n i =>
    rw [State.checkBitSrcs, State.bitSrcType, State.readBitSrc, h n (List.mem_singleton_self n)]
    cases s.net n with
    | error r => rfl
    | ok v =>
      have hty := positionType_ty v i
      cases hp : valuePosition v i <;> rw [hp] at hty <;> simp [hp, hty, bind, Except.bind, refusal?]

/-- The check finds wrong with a bus given position by position what is wrong with reading its positions. -/
theorem checkBitSrcs_eq_refusal {l : List BitSrc}
    (h : ∀ n ∈ l.flatMap bitSrcNets, s.netType n = Value.ty <$> s.net n) :
    s.checkBitSrcs l = refusal? (s.readBitSrcs l) := by
  induction l with
  | nil => rfl
  | cons b l ih =>
    rw [List.flatMap_cons, List.forall_mem_append] at h
    obtain ⟨hb, hl⟩ := h
    rw [checkBitSrcs_cons hb, ih hl, State.readBitSrcs]
    cases s.readBitSrc b <;> cases s.readBitSrcs l <;> rfl

/-- There is one Bit for each position. -/
theorem readBitSrcs_length {l : List BitSrc} {x : List Bit} (h : s.readBitSrcs l = .ok x) : x.length = l.length := by
  induction l generalizing x with
  | nil => cases h; rfl
  | cons b l ih =>
    rw [State.readBitSrcs] at h
    cases hb : s.readBitSrc b with
    | error r => rw [hb] at h; cases h
    | ok y =>
      cases hl : s.readBitSrcs l with
      | error r => rw [hb, hl] at h; cases h
      | ok z =>
        rw [hb, hl] at h
        cases h
        exact congrArg (· + 1) (ih hl)

/-- An argument has the type of its value, or is refused by the check and the evaluation alike, when that is so of the
nets it is wired to. -/
theorem srcType_eq_map_read {a : Src} (h : ∀ n ∈ srcNets a, s.netType n = Value.ty <$> s.net n) :
    s.srcType a = Value.ty <$> s.read a := by
  cases a with
  | tie v => rfl
  | net n => exact h n (List.mem_singleton_self n)
  | pos n i =>
    rw [State.srcType, State.read, h n (List.mem_singleton_self n)]
    cases s.net n with
    | error r => rfl
    | ok v =>
      refine (positionType_ty v i).trans ?_
      change _ = Value.ty <$> (valuePosition v i >>= fun b => .ok (.bit b))
      cases valuePosition v i <;> rfl
  | slice n i j =>
    rw [State.srcType, State.read, h n (List.mem_singleton_self n)]
    cases s.net n with
    | error r => rfl
    | ok v => exact sliceType_ty v i j
  | assemble bs =>
    rw [State.srcType, State.read, checkBitSrcs_eq_refusal h]
    cases hx : s.readBitSrcs bs with
    | error r => rfl
    | ok x =>
      have hty := ofPositions_length x
      rw [readBitSrcs_length hx] at hty
      rw [hty]
      cases hv : busOfBits x <;> simp [hv, refusal?, bind, Except.bind]

/-- An argument has a type exactly when it carries a value of it, when its nets do. -/
theorem srcType_eq_ok_iff {a : Src} {t : Ty} (h : ∀ n ∈ srcNets a, s.netType n = Value.ty <$> s.net n) :
    s.srcType a = .ok t ↔ ∃ v, s.read a = .ok v ∧ v.ty = t := by
  rw [srcType_eq_map_read h]
  cases s.read a <;> simp

/-- The type on an output port is that of the value on it. -/
theorem portType_map_ty (p : OutPort) (o : Outputs) :
    portType p (o.map fun q => (q.1, q.2.ty)) = (portGet p o).map Value.ty := by
  induction o with
  | nil => rfl
  | cons q o ih =>
    obtain ⟨k, v⟩ := q
    by_cases hk : k = p <;> simp [portType, portGet, hk, ih]

/-- Every instance of the netlist is found under its name, if not itself then another one. -/
theorem exists_findInstance {i : Instr} {l : List Instr} (hi : i ∈ l) : ∃ j, findInstance i.name l = some j := by
  induction l with
  | nil => cases hi
  | cons j l ih =>
    by_cases hj : j.name = i.name
    · exact ⟨j, by rw [findInstance, if_pos hj]⟩
    · have hne : i ≠ j := fun h => hj (h ▸ rfl)
      obtain ⟨k, hk⟩ := ih (List.mem_of_ne_of_mem hne hi)
      exact ⟨k, by rw [findInstance, if_neg hj, hk]⟩

variable (hs : s.Sound)
include hs

/-- In a sound evaluation, what has settled under a name are the outputs of the instance found under it, each of the
type of its port. -/
theorem State.Sound.outputs_typed {d : Name} {o : Outputs} (hd : storeGet d s.settled = some o) :
    ∃ i, findInstance d s.netlist.instances = some i ∧ o.map (fun q => (q.1, q.2.ty)) = i.comp.outPorts := by
  have hset : s.isSettled d = true := by simp [State.isSettled, hd]
  obtain ⟨j, hj, rfl⟩ := hs.onlyInstances d hset
  obtain ⟨i, hi⟩ := exists_findInstance hj
  obtain ⟨hmem, hname⟩ := findInstance_eq_some hi
  obtain ⟨o', ho', hty⟩ := exec_typed (hs.consistent i hmem (hname.symm ▸ hset))
  have hd' : storeGet j.name s.settled = some o' := by rw [ho', hname]; exact storeGet_put_same _ _ _
  obtain rfl : o = o' := Option.some.inj (hd.symm.trans hd')
  exact ⟨i, hi, hty⟩

/-- In a sound evaluation, a net has the type of the value it carries, or is undriven for the check and the evaluation
alike, unless it comes from an instance that has not settled yet. -/
theorem State.Sound.netType_eq_map_net {n : Net}
    (h : ∀ i ∈ s.netlist.instances, i.name ∈ netInstances n → s.isSettled i.name = true) :
    s.netType n = Value.ty <$> s.net n := by
  cases n with
  | input k =>
    rw [State.netType, State.net]
    cases storeGet k s.inputs <;> rfl
  | wire d p =>
    rw [State.netType, State.net]
    cases hd : storeGet d s.settled with
    | some o =>
      obtain ⟨i, hi, hty⟩ := hs.outputs_typed hd
      rw [hi]
      dsimp only
      rw [← hty, portType_map_ty]
      cases portGet p o <;> rfl
    | none =>
      cases hi : findInstance d s.netlist.instances with
      | none => rfl
      | some i =>
        obtain ⟨hmem, rfl⟩ := findInstance_eq_some hi
        have hset := h i hmem (List.mem_singleton_self _)
        rw [isSettled_eq_false_iff.mpr hd] at hset
        cases hset

/-- In a sound evaluation, a net that carries a value has its type. -/
theorem State.Sound.netType_of_net {n : Net} {v : Value} (h : s.net n = .ok v) :
    s.netType n = Value.ty <$> s.net n := by
  refine hs.netType_eq_map_net fun i _ hi => ?_
  cases n with
  | input k => cases hi
  | wire d p =>
    obtain rfl := List.mem_singleton.mp hi
    exact isSettled_of_net h

/-- In a sound evaluation of an accepted netlist, an instance is evaluated when all it depends on has settled. -/
theorem State.Sound.exec_of_dependencies {i : Instr} (hcheck : s.check = none) (hi : i ∈ s.netlist.instances)
    (hdep : ∀ d ∈ dependencies i, s.isSettled d = true) : ∃ t, exec i s = .next t := by
  refine exec_of_readsPorts (readsPorts_of_read fun k t a ht ha => ?_)
  refine (srcType_eq_ok_iff fun n hn => hs.netType_eq_map_net fun j _ hj => hdep _ ?_).mp
    (srcType_of_check hcheck hi ht ha)
  exact List.mem_flatMap.mpr ⟨n, List.mem_flatMap.mpr ⟨a, List.mem_of_getElem? ha, hn⟩, hj⟩

end

/-- In a finished evaluation every net has the type of the value it carries, or is undriven for the check too. -/
theorem State.Finished.netType_eq_map_net {s : State} (h : s.Finished) (n : Net) :
    s.netType n = Value.ty <$> s.net n :=
  h.sound.netType_eq_map_net fun i hi _ => List.all_eq_true.mp h.allSettled i hi

/-! ### Feedback -/

section
variable {l : List Instr}

/-- The instances of the netlist that have not been evaluated. -/
def remaining (l : List Instr) (done : List Name) : List Instr := l.filter fun i => !done.contains i.name

@[simp] theorem mem_remaining {done : List Name} {i : Instr} : i ∈ remaining l done ↔ i ∈ l ∧ i.name ∉ done := by
  simp [remaining]

/-- Evaluating an instance leaves fewer. -/
theorem remaining_cons_length_lt {done : List Name} {i : Instr} (hi : i ∈ remaining l done) :
    (remaining l (i.name :: done)).length < (remaining l done).length := by
  have hfilter : remaining l (i.name :: done) = (remaining l done).filter fun j => j.name ≠ i.name := by
    simp [remaining, List.filter_filter]
  rw [hfilter, List.length_filter_lt_length_iff_exists]
  exact ⟨i, hi, by simp⟩

/-- Nothing remains exactly when every instance has been evaluated. -/
theorem remaining_eq_nil {done : List Name} : remaining l done = [] ↔ (l.all fun i => done.contains i.name) = true := by
  simp [remaining]

section
variable (hwired : ∀ i ∈ l, ∀ d ∈ dependencies i, ∃ j ∈ l, j.name = d)
include hwired

/-- Where something remains and nothing is ready, what remains feeds back: each instance waits for another one or for
itself. -/
theorem feedback_remaining {done : List Name} (hstuck : ∀ i ∈ l, ready done.contains i = false)
    (hleft : remaining l done ≠ []) : Feedback l ((remaining l done).map Instr.name) := by
  refine ⟨by simpa using hleft, fun d hd => ?_⟩
  obtain ⟨i, hi, rfl⟩ := List.mem_map.mp hd
  obtain ⟨hil, hnew⟩ := mem_remaining.mp hi
  obtain ⟨e, he, hopen⟩ : ∃ e ∈ dependencies i, e ∉ done := by simpa [ready, hnew] using hstuck i hil
  obtain ⟨j, hj, rfl⟩ := hwired i hil e he
  exact ⟨i, hil, rfl, j.name, List.mem_map_of_mem (mem_remaining.mpr ⟨hj, hopen⟩), he⟩

/-- Where no evaluation in dependency order reaches every instance, signals are fed back. -/
theorem exists_feedback_of_acyclicFrom {k : Nat} {done : List Name} (hk : (remaining l done).length ≤ k)
    (h : acyclicFrom l k done = false) : ∃ loop, Feedback l loop := by
  induction k generalizing done with
  | zero =>
    have hall := remaining_eq_nil.mp (List.eq_nil_of_length_eq_zero (Nat.le_zero.mp hk))
    rw [acyclicFrom, hall] at h
    cases h
  | succ k ih =>
    unfold acyclicFrom at h
    split at h
    case h_1 i hfind =>
      obtain ⟨hnew, -⟩ : i.name ∉ done ∧ ∀ d ∈ dependencies i, d ∈ done := by
        simpa [ready] using List.find?_some hfind
      have hi : i ∈ remaining l done := mem_remaining.mpr ⟨List.mem_of_find?_eq_some hfind, hnew⟩
      exact ih (Nat.le_of_lt_succ (Nat.lt_of_lt_of_le (remaining_cons_length_lt hi) hk)) h
    case h_2 hfind =>
      have hstuck : ∀ i ∈ l, ready done.contains i = false := by simpa using hfind
      rw [← Bool.not_eq_true, ← remaining_eq_nil] at h
      exact ⟨_, feedback_remaining hwired hstuck h⟩

/-- A netlist that is not acyclic feeds signals back, where every wire comes from one of its instances. -/
theorem exists_feedback_of_not_acyclic (h : acyclic l ≠ true) : ∃ loop, Feedback l loop :=
  exists_feedback_of_acyclicFrom hwired (List.length_filter_le _ l) (Bool.eq_false_iff.mpr h)

end

/-- In an acyclic netlist with distinct names nothing is fed back: along the dependencies no instance is in a loop. -/
theorem not_feedback_of_acyclic (hnames : (l.map Instr.name).Nodup) (h : acyclic l = true) (loop : List Name) :
    ¬Feedback l loop := by
  rintro ⟨hne, hloop⟩
  have hout : ∀ i ∈ l, i.name ∉ loop := by
    refine forall_of_acyclic (P := (· ∉ loop)) (fun i hi hdep hin => ?_) h
    obtain ⟨j, hj, hname, e, he, hej⟩ := hloop _ hin
    obtain rfl : j = i := List.inj_on_of_nodup_map hnames hj hi hname
    exact hdep e hej he
  obtain ⟨d, hd⟩ := List.exists_mem_of_ne_nil loop hne
  obtain ⟨i, hi, rfl, -⟩ := hloop d hd
  exact hout i hi hd

end

/-! ### What the check refuses -/

section
variable {s : State}

/-- No argument is refused exactly when each has the type of the port it is wired to. -/
theorem checkInstances_eq_none_iff_srcType {l : List Instr} :
    s.checkInstances l = none ↔ ∀ i ∈ l, ∀ (k : Nat) (t : Ty) (a : Src), i.comp.inPorts[k]? = some t →
      i.args[k]? = some a → s.srcType a = .ok t := by
  simp only [checkInstances_eq_none_iff, checkArgs_eq_none_iff]

/-- Where every argument has a type, every wire comes from an instance of the netlist. -/
theorem exists_instance_of_dependency (h : s.checkInstances s.netlist.instances = none) {i : Instr}
    (hi : i ∈ s.netlist.instances) {d : Name} (hd : d ∈ dependencies i) : ∃ j ∈ s.netlist.instances, j.name = d := by
  obtain ⟨n, hn, hdn⟩ := List.mem_flatMap.mp hd
  obtain ⟨a, ha, hna⟩ := List.mem_flatMap.mp hn
  obtain ⟨k, hk, rfl⟩ := List.mem_iff_getElem.mp ha
  have hport := List.getElem?_eq_getElem (l := i.comp.inPorts) (i := k) (inPorts_length i ▸ hk)
  have hty := checkInstances_eq_none_iff_srcType.mp h i hi k _ _ hport (List.getElem?_eq_getElem hk)
  cases n with
  | input => cases hdn
  | wire e p =>
    obtain rfl := List.mem_singleton.mp hdn
    cases hj : findInstance d s.netlist.instances with
    | some j => exact ⟨j, findInstance_eq_some hj⟩
    | none =>
      have herror : s.netType (.wire d p) = .error .undrivenInput := by rw [State.netType, hj]
      exact absurd hty (srcType_of_netType_error herror hna _)

/-- The step names the refusal of the check, and refuses exactly what the check does not accept. -/
theorem check_refuses_iff : (∃ r, s.check = some r ∧ step s = .refused r) ↔ s.check ≠ none := by
  constructor
  · rintro ⟨r, hr, -⟩ hnone
    rw [hr] at hnone
    cases hnone
  · intro h
    obtain ⟨r, hr⟩ := Option.ne_none_iff_exists'.mp h
    exact ⟨r, hr, by rw [step, hr]⟩

end

/-! ### Copies of an instance wired to constants -/

/-- Every instance has a copy under any name. -/
theorem exists_copy (i : Instr) (d : Name) : ∃ j : Instr, j.comp = i.comp ∧ j.name = d ∧ j.args = i.args := by
  have hbuild : ∃ j, i.comp.build d i.args = some j := by cases i <;> exact ⟨_, rfl⟩
  obtain ⟨j, hj⟩ := hbuild
  exact ⟨j, build_eq_some hj⟩

theorem checkBitSrcs_of_constant {s : State} {l : List BitSrc} (h : l.flatMap bitSrcNets = []) :
    s.checkBitSrcs l = none := by
  induction l with
  | nil => rfl
  | cons b l ih =>
    rw [List.flatMap_cons, List.append_eq_nil_iff] at h
    obtain ⟨hb, hl⟩ := h
    cases b with
    | tie x => exact ih hl
    | net | pos => cases hb

/-- An argument wired to constants that fits a port has its type, in every state. -/
theorem srcType_of_constant {s : State} {a : Src} {t : Ty} (h : srcNets a = []) (hfits : a.fits t = true) :
    s.srcType a = .ok t := by
  cases a with
  | tie v => simpa [State.srcType] using hfits
  | net | pos | slice => cases h
  | assemble bs =>
    have ht : Ty.ofPositions bs.length = some t := by simpa [Src.fits] using hfits
    rw [State.srcType, checkBitSrcs_of_constant h, ht]

/-- A netlist of well-formed instances with distinct names, all wired to constants, is accepted. -/
theorem check_build_of_constant {s : State} {l : List Instr} (hnames : (l.map Instr.name).Nodup)
    (hwf : ∀ i ∈ l, i.wf = true) (hconst : ∀ i ∈ l, instrNets i = []) : (s.build l).check = none := by
  refine check_eq_none.mpr ⟨nofun, (distinctNames_iff _).mpr hnames, ?typed, ?acyclic⟩
  case typed =>
    refine checkInstances_eq_none_iff_srcType.mpr fun i hi k t a ht ha => ?_
    obtain ⟨-, hfits⟩ := fitsPorts_iff.mp (hwf i hi)
    exact srcType_of_constant (List.flatMap_eq_nil_iff.mp (hconst i hi) a (List.mem_of_getElem? ha)) (hfits k t a ht ha)
  case acyclic =>
    have hfree : ∀ i ∈ l, dependencies i = [] := fun i hi => by rw [dependencies, hconst i hi, List.flatMap_nil]
    by_contra hcycle
    obtain ⟨loop, hne, hloop⟩ := exists_feedback_of_not_acyclic (fun i hi d hd => by simp [hfree i hi] at hd) hcycle
    obtain ⟨d, hd⟩ := List.exists_mem_of_ne_nil loop hne
    obtain ⟨i, hi, -, e, -, he⟩ := hloop d hd
    simp [hfree i hi] at he

end Sys2Proof.Machine

namespace Sys2Proof.Proofs

open Sys2Proof.Machine

/-- Settles O40: well-typed arguments are read, so the instance evaluates, with outputs of the right types
(`exec_typed`); and `Fault` has no constructor. -/
theorem everyWellTypedEvaluationSucceeds : Obligations.EveryWellTypedEvaluationSucceeds := by
  refine ⟨fun i s h => ?_, fun _ f => nomatch f⟩
  obtain ⟨t, ht⟩ := exec_of_readsPorts (readsPorts_of_read h)
  obtain ⟨o, rfl, hty⟩ := exec_typed ht
  exact ⟨o, ht, hty⟩

/-- Settles O45: in an accepted netlist every argument has the type of its port. -/
theorem wrongWidthIsRefused : Obligations.WrongWidthIsRefused :=
  fun _ _ _ _ _ hi ht ha hty => step_refused_of_check fun hcheck => hty (srcType_of_check hcheck hi ht ha)

/-- Settles O47: the four branches of the check, where the last one is feedback because the names are distinct and every
wire comes from an instance of the netlist. -/
theorem refusedExactlyWhenNoNetlistOfTheCore : Obligations.RefusedExactlyWhenNoNetlistOfTheCore := by
  intro s
  rw [check_refuses_iff, Ne, check_eq_none, distinctNames_iff]
  constructor
  · intro hrefused
    by_contra hlegal
    simp only [not_or, not_exists, not_and, not_not] at hlegal
    obtain ⟨hconvention, hnames, hargs, hloop⟩ := hlegal
    have htyped := checkInstances_eq_none_iff_srcType.mpr hargs
    refine hrefused ⟨hconvention, hnames, htyped, by_contra fun hcycle => ?_⟩
    obtain ⟨loop, hfeed⟩ :=
      exists_feedback_of_not_acyclic (fun i hi d hd => exists_instance_of_dependency htyped hi hd) hcycle
    exact hloop loop hfeed
  · rintro (h | h | ⟨i, hi, k, t, a, ht, ha, hty⟩ | ⟨loop, hfeed⟩) ⟨hconvention, hnames, htyped, hacyclic⟩
    · exact hconvention h
    · exact h hnames
    · exact hty (checkInstances_eq_none_iff_srcType.mp htyped i hi k t a ht ha)
    · exact not_feedback_of_acyclic hnames hacyclic loop hfeed

/-- Settles O56: the next instance, if there is one, depends on what has settled, whose outputs have the types of their
ports. -/
theorem soundEvaluationNeverStops : Obligations.SoundEvaluationNeverStops := by
  intro s hs hcheck
  cases hnext : s.nextInstance with
  | none => exact ⟨s, step_of_nextInstance_none hcheck hnext⟩
  | some i =>
    obtain ⟨hi, -, hdep⟩ := nextInstance_spec hnext
    rw [step_of_nextInstance_some hcheck hnext]
    exact hs.exec_of_dependencies hcheck hi hdep

/-- Settles O59: the check and the evaluation read an argument alike, on the nets that carry a value and, once all has
settled, on every net. -/
theorem legalArgumentsHaveTheirType : Obligations.LegalArgumentsHaveTheirType := by
  constructor
  · intro s a v hs _ hread
    refine (srcType_eq_ok_iff fun n hn => ?_).mpr ⟨v, hread, rfl⟩
    obtain ⟨x, hx⟩ := net_of_read hread n hn
    exact hs.netType_of_net hx
  · intro s a t h hty
    exact (srcType_eq_ok_iff fun n _ => h.netType_eq_map_net n).mp hty

/-- Settles O60: the copies of the instance under the names 0 to `n - 1`. -/
theorem anyNumberOfInstancesIsAccepted : Obligations.AnyNumberOfInstancesIsAccepted := by
  intro s i n hwf hconst
  choose copy hcomp hname hargs using exists_copy i
  have hcopy : ∀ j ∈ (List.range n).map copy, j.comp = i.comp ∧ j.args = i.args :=
    List.forall_mem_map.mpr fun d _ => ⟨hcomp d, hargs d⟩
  refine ⟨(List.range n).map copy, by simp, hcopy, check_build_of_constant ?_ (fun j hj => ?_) fun j hj => ?_⟩
  · have hnames : Instr.name ∘ copy = id := funext hname
    rw [List.map_map, hnames, List.map_id]
    exact List.nodup_range
  · obtain ⟨hc, ha⟩ := hcopy j hj
    rwa [Instr.wf, hc, ha]
  · obtain ⟨-, ha⟩ := hcopy j hj
    rwa [instrNets, ha]

end Sys2Proof.Proofs
end

section
/-! PROOFS. 70_reset_and_hazards.md: feedback is what the check refuses as a cycle, every evaluation starts sound, and
an accepted netlist settles. -/

namespace Sys2Proof.Machine

/-! ### The type of an argument is never refused as a cycle -/

section
variable {s : State}

theorem bind_ne_cycle {α β : Type} {x : Except Refusal α} {f : α → Except Refusal β} (hx : x ≠ .error .cycle)
    (hf : ∀ a, f a ≠ .error .cycle) : x >>= f ≠ .error .cycle := by
  cases x with
  | error r => rintro ⟨⟩; exact hx rfl
  | ok a => exact hf a

theorem netType_ne_cycle (n : Net) : s.netType n ≠ .error .cycle := by
  cases n with
  | input k => rw [State.netType]; split <;> nofun
  | wire d p =>
    rw [State.netType]
    split
    · split <;> nofun
    · nofun

theorem positionType_ne_cycle (t : Ty) (i : Nat) : positionType t i ≠ .error .cycle := by
  unfold positionType
  split <;> nofun

theorem sliceType_ne_cycle (t : Ty) (i j : Nat) : sliceType t i j ≠ .error .cycle := by
  unfold sliceType
  split
  · split <;> nofun
  · nofun

theorem bitSrcType_ne_cycle (b : BitSrc) : s.bitSrcType b ≠ .error .cycle := by
  cases b with
  | tie => nofun
  | net n => exact netType_ne_cycle n
  | pos n i => exact bind_ne_cycle (netType_ne_cycle n) fun t => positionType_ne_cycle t i

theorem checkBitSrcs_ne_cycle (l : List BitSrc) : s.checkBitSrcs l ≠ some .cycle := by
  induction l with
  | nil => nofun
  | cons b l ih =>
    have hb := bitSrcType_ne_cycle (s := s) b
    rw [State.checkBitSrcs]
    split
    case h_1 hr => rintro ⟨⟩; exact hb hr
    case h_2 =>
      split
      · exact ih
      · nofun

theorem srcType_ne_cycle (a : Src) : s.srcType a ≠ .error .cycle := by
  cases a with
  | tie => nofun
  | net n => exact netType_ne_cycle n
  | pos n i => exact bind_ne_cycle (netType_ne_cycle n) fun t => positionType_ne_cycle t i
  | slice n i j => exact bind_ne_cycle (netType_ne_cycle n) fun t => sliceType_ne_cycle t i j
  | assemble bs =>
    have hbs := checkBitSrcs_ne_cycle (s := s) bs
    rw [State.srcType]
    split
    case h_1 hr => rintro ⟨⟩; exact hbs hr
    case h_2 => split <;> nofun

theorem checkArgs_ne_cycle (ts : List Ty) (l : List Src) : s.checkArgs ts l ≠ some .cycle := by
  induction ts generalizing l with
  | nil => nofun
  | cons t ts ih =>
    cases l with
    | nil => nofun
    | cons a l =>
      have ha := srcType_ne_cycle (s := s) a
      rw [State.checkArgs]
      split
      case h_1 hr => rintro ⟨⟩; exact ha hr
      case h_2 =>
        split
        · exact ih l
        · nofun

theorem checkInstances_ne_cycle (l : List Instr) : s.checkInstances l ≠ some .cycle := by
  induction l with
  | nil => nofun
  | cons i l ih =>
    have hi := checkArgs_ne_cycle (s := s) i.comp.inPorts i.args
    rw [State.checkInstances]
    split
    case h_1 hr => rintro ⟨⟩; exact hi hr
    case h_2 => exact ih

/-- The check answers a cycle only in its last branch: every argument has its port's type, and the netlist is not
acyclic. -/
theorem typed_and_not_acyclic_of_check (h : s.check = some .cycle) :
    s.checkInstances s.netlist.instances = none ∧ acyclic s.netlist.instances ≠ true := by
  have hargs := checkInstances_ne_cycle (s := s) s.netlist.instances
  unfold State.check at h
  split at h
  · cases h
  · split at h
    · cases h
    · split at h
      case h_1 r hr => exact absurd (hr.trans h) hargs
      case h_2 htyped =>
        split at h
        · cases h
        · exact ⟨htyped, ‹_›⟩

end

/-! ### The start of an evaluation -/

section
variable {s : State}

theorem isSettled_of_settled_eq_nil (h : s.settled = []) (d : Name) : s.isSettled d = false := by
  rw [isSettled_eq_false_iff, h]
  rfl

/-- With nothing settled, an evaluation is sound. -/
theorem sound_of_settled_eq_nil (h : s.settled = []) (hinputs : storeWf s.inputs) : s.Sound where
  canonical := ⟨hinputs, h ▸ List.Pairwise.nil⟩
  onlyInstances d hd := by simp [isSettled_of_settled_eq_nil h] at hd
  consistent i _ hd := by simp [isSettled_of_settled_eq_nil h] at hd

end

/-! ### A run to the end of the evaluation -/

theorem run_succ_of_step {s t : State} (k : Nat) (h : step s = .next t) :
    Host.Core.run Sys2Proof.core (k + 1) s = Host.Core.run Sys2Proof.core k t := by
  have hstep : Sys2Proof.core.step s = .next t := h
  simp only [Host.Core.run, hstep]

/-- What has settled does not matter to the check. -/
theorem check_settle (s : State) (d : Name) (o : Outputs) : (s.settle d o).check = s.check := check_congr rfl rfl

/-- Where no instance is ready and the evaluation in dependency order has reached them all, it has with any bound. -/
theorem acyclicFrom_of_all_contains {l : List Instr} {done : List Name} (hfind : l.find? (ready done.contains) = none)
    (hall : (l.all fun i => done.contains i.name) = true) (k : Nat) : acyclicFrom l k done = true := by
  cases k with
  | zero => exact hall
  | succ k => rw [acyclicFrom, hfind]; exact hall

/-- A run evaluates the instances as `acyclicFrom` lists them: from a sound state in which exactly the instances of
`done` have settled, it settles every instance in as many steps as `acyclicFrom` takes to reach them all. -/
theorem run_finishes_of_acyclicFrom {k : Nat} {s : State} {done : List Name} (hs : s.Sound) (hcheck : s.check = none)
    (hdone : s.isSettled = done.contains) (h : acyclicFrom s.netlist.instances k done = true) :
    ∃ t : State, Host.Core.run Sys2Proof.core k s = .next t ∧ t.Finished ∧
      t.prim = s.prim ∧ t.inputs = s.inputs ∧ t.netlist = s.netlist := by
  induction k generalizing s done with
  | zero => exact ⟨s, rfl, ⟨hs, hcheck, by rw [State.allSettled, hdone]; exact h⟩, rfl, rfl, rfl⟩
  | succ k ih =>
    have hfirst : s.nextInstance = s.netlist.instances.find? (ready done.contains) := by
      rw [State.nextInstance, hdone]
    unfold acyclicFrom at h
    split at h
    case h_1 i hfind =>
      obtain ⟨t, hstep⟩ := Proofs.soundEvaluationNeverStops s hs hcheck
      have hsound := Proofs.stepKeepsEvaluationSound s t hs hstep
      have hexec := (step_of_nextInstance_some hcheck (hfirst.trans hfind)).symm.trans hstep
      obtain ⟨o, rfl⟩ := exec_settles hexec
      have hset : (s.settle i.name o).isSettled = (i.name :: done).contains := by
        funext d
        rw [State.isSettled_settle, hdone, List.contains_cons]
        rfl
      rw [run_succ_of_step k hstep]
      exact ih hsound ((check_settle s i.name o).trans hcheck) hset h
    case h_2 hfind =>
      rw [run_succ_of_step k (step_of_nextInstance_none hcheck (hfirst.trans hfind))]
      exact ih hs hcheck hdone (acyclicFrom_of_all_contains hfind h k)

end Sys2Proof.Machine

namespace Sys2Proof.Proofs

open Sys2Proof.Machine

/-- Settles O46: an accepted netlist is acyclic with distinct names, and so has no feedback. -/
theorem feedbackIsRefused : Obligations.FeedbackIsRefused := by
  intro s loop hfeed
  refine step_refused_of_check fun hcheck => ?_
  obtain ⟨-, -, -, hacyclic⟩ := check_eq_none.mp hcheck
  exact not_feedback_of_acyclic (names_nodup_of_check hcheck) hacyclic loop hfeed

/-- Settles O48: the check answers a cycle only where every argument has its type, so every wire comes from an instance,
and what no evaluation in dependency order reaches feeds back. -/
theorem onlyFeedbackIsRefusedAsCycle : Obligations.OnlyFeedbackIsRefusedAsCycle := by
  intro s h
  obtain ⟨htyped, hcycle⟩ := typed_and_not_acyclic_of_check h
  exact exists_feedback_of_not_acyclic (fun i hi d hd => exists_instance_of_dependency htyped hi hd) hcycle

/-- Settles O53: each change empties what had settled and sets its own field alone, and an evaluation with nothing
settled is sound. -/
theorem newInputsStartANewEvaluation : Obligations.NewInputsStartANewEvaluation := by
  refine ⟨fun s t k v hp hin hnet => ?drive, fun s t p hin hnet => ?bind, fun s t l hp hin => ?build⟩
  case drive =>
    have heq : s.drive k v = t.drive k v := by rw [State.drive, State.drive, hp, hin, hnet]
    exact ⟨heq, rfl, rfl, storeGet_put_same k v s.inputs, fun j hj => storeGet_put_other hj v s.inputs,
      fun hwf => sound_of_settled_eq_nil rfl (storePut_wf k v s.inputs hwf)⟩
  case bind =>
    have heq : s.bindPrimitive p = t.bindPrimitive p := by rw [State.bindPrimitive, State.bindPrimitive, hin, hnet]
    exact ⟨heq, rfl, rfl, rfl, fun hwf => sound_of_settled_eq_nil rfl hwf⟩
  case build =>
    have heq : s.build l = t.build l := by rw [State.build, State.build, hp, hin]
    exact ⟨heq, rfl, rfl, rfl, fun hwf => sound_of_settled_eq_nil rfl hwf⟩

/-- Settles O57: the run follows the evaluation in dependency order by which the check has found the netlist acyclic. -/
theorem everyAcceptedNetlistSettles : Obligations.EveryAcceptedNetlistSettles := by
  intro s hcheck hempty hinputs
  obtain ⟨-, -, -, hacyclic⟩ := check_eq_none.mp hcheck
  have hdone : s.isSettled = List.contains [] := funext fun d => isSettled_of_settled_eq_nil hempty d
  exact run_finishes_of_acyclicFrom (sound_of_settled_eq_nil hempty hinputs) hcheck hdone hacyclic

/-- Settles O54: the primitive of reset is NAND, and nothing has settled. -/
theorem resetIsSound : Obligations.ResetIsSound :=
  ⟨contract_iff_nand.mpr rfl, rfl, rfl, rfl, sound_of_settled_eq_nil rfl List.Pairwise.nil⟩

end Sys2Proof.Proofs
end

section
/-! PROOFS. 30_encoding.md section 9: every part of the decoder gives back what the encoder wrote, whatever bytes
follow, so an instance and a netlist come back from their images. 00_scope.md section 5: what a bus given position by
position reads as. -/

namespace Sys2Proof

/-- What follows a computation that has answered is given its answer. -/
theorem ok_bind {ε α β : Type} (a : α) (f : α → Except ε β) : (Except.ok a >>= f) = f a := rfl

/-! ### Wires and positions -/

@[simp] theorem decodeByte_cons (b : Byte) (r : List Byte) : decodeByte (b :: r) = .ok (b, r) := rfl

/-- The byte of an output port chooses it. -/
theorem OutPort.ofCode?_code (p : OutPort) : OutPort.ofCode? p.code = some p := by
  cases p <;> rfl

/-- The byte of an output port is not the mark of an input port. -/
theorem OutPort.code_ne_inputMark (p : OutPort) : p.code ≠ inputMark := by
  cases p <;> decide

section
variable (r : List Byte)

theorem decodeNet_encodeNet (n : Net) : decodeNet (encodeNet n ++ r) = .ok (n, r) := by
  cases n with
  | input k => simp [encodeNet, decodeNet, decodeName_encodeName, ok_bind]
  | wire d p =>
    simp [encodeNet, decodeNet, decodeName_encodeName, ok_bind, p.code_ne_inputMark, p.ofCode?_code]

theorem decodePos_encodePos (i : Fin 16) : decodePos (encodePos i ++ r) = .ok (i, r) := by
  have hbyte : (BitVec.ofNat 8 i.val).toNat = i.val := toNat_ofNat_byte (by omega)
  simp [encodePos, decodePos, ok_bind, hbyte]

/-! ### Constants -/

theorem decodeBit_byte (b : Bit) : decodeBit ((if b then 1 else 0) :: r) = .ok (b, r) := by
  cases b <;> rfl

/-- The byte of a bus of at most 8 positions gives it back. -/
theorem decodeNarrow_byte {n : Nat} (hn : n ≤ 8) (v : Bus n) :
    decodeNarrow n (BitVec.ofNat 8 v.toNat :: r) = .ok (v, r) := by
  have hbyte : (BitVec.ofNat 8 v.toNat).toNat = v.toNat :=
    toNat_ofNat_byte (Nat.lt_of_lt_of_le v.isLt (Nat.pow_le_pow_right (by decide) hn))
  simp only [decodeNarrow, decodeByte_cons, ok_bind, hbyte, v.isLt, if_true]
  rw [BitVec.ofNat_toNat, BitVec.setWidth_eq]

/-- A constant is read back at a port of its type. -/
theorem decodeValue_encodeValue (v : Value) : decodeValue v.ty (encodeValue v ++ r) = .ok (v, r) := by
  cases v with
  | bit b => simp only [Value.ty, encodeValue, decodeValue, List.cons_append, List.nil_append, decodeBit_byte, ok_bind]
  | bus2 v | bus3 v | bus4 v | bus8 v =>
    have hread := decodeNarrow_byte r (by decide) v
    simp only [Value.ty, encodeValue, decodeValue, List.cons_append, List.nil_append, hread, ok_bind]
  | bus16 v =>
    have hhi : (BitVec.ofNat 8 (v.toNat / 256)).toNat = v.toNat / 256 := toNat_ofNat_byte (by omega)
    have hlo : (BitVec.ofNat 8 (v.toNat % 256)).toNat = v.toNat % 256 := toNat_ofNat_byte (by omega)
    simp [encodeValue, decodeValue, Value.ty, ok_bind, hhi, hlo, Nat.div_add_mod]

/-! ### Arguments -/

theorem decodeBitSrc_encodeBitSrc (b : BitSrc) : decodeBitSrc (encodeBitSrc b ++ r) = .ok (b, r) := by
  cases b with
  | tie b =>
    simp only [encodeBitSrc, decodeBitSrc, List.cons_append, List.nil_append, decodeByte_cons, ok_bind, decodeBit_byte,
      if_true]
  | net n => simp [encodeBitSrc, decodeBitSrc, decodeNet_encodeNet, ok_bind]
  | pos n i => simp [encodeBitSrc, decodeBitSrc, decodeNet_encodeNet, decodePos_encodePos, ok_bind]

theorem decodeBitSrcs_encodeBitSrcs (l : List BitSrc) :
    decodeBitSrcs l.length (encodeBitSrcs l ++ r) = .ok (l, r) := by
  induction l with
  | nil => rfl
  | cons b l ih => simp [encodeBitSrcs, decodeBitSrcs, decodeBitSrc_encodeBitSrc, ih, ok_bind]

/-- A bus given position by position that fits a port has at most 16 positions, so that one byte counts them. -/
theorem length_le_of_fits {bs : List BitSrc} {t : Ty} (h : (Src.assemble bs).fits t = true) : bs.length ≤ 16 := by
  obtain ⟨-, hlen⟩ := Machine.ofPositions_eq_some (by simpa [Src.fits] using h : Ty.ofPositions bs.length = some t)
  rw [hlen]
  cases t <;> decide

/-- An argument comes back in each of its five forms. That it fits the port is needed for two of them: a constant has no
bytes for its type, and a bus given position by position one byte for its length. -/
theorem decodeForm_encodeSrc {a : Src} {t : Ty} (h : a.fits t = true) :
    decodeForm t (encodeSrc a ++ r) = .ok (a, r) := by
  cases a with
  | tie v =>
    obtain rfl : v.ty = t := by simpa using h
    simp [encodeSrc, decodeForm, decodeValue_encodeValue, ok_bind]
  | net n => simp [encodeSrc, decodeForm, decodeNet_encodeNet, ok_bind]
  | pos n i => simp [encodeSrc, decodeForm, decodeNet_encodeNet, decodePos_encodePos, ok_bind]
  | slice n i j => simp [encodeSrc, decodeForm, decodeNet_encodeNet, decodePos_encodePos, ok_bind]
  | assemble bs =>
    have hcount : (BitVec.ofNat 8 bs.length).toNat = bs.length :=
      toNat_ofNat_byte (Nat.lt_of_le_of_lt (length_le_of_fits h) (by decide))
    simp only [encodeSrc, decodeForm, List.cons_append, decodeByte_cons, ok_bind, hcount, decodeBitSrcs_encodeBitSrcs]
    rfl

theorem decodeSrc_encodeSrc {a : Src} {t : Ty} (h : a.fits t = true) :
    decodeSrc t (encodeSrc a ++ r) = .ok (a, r) := by
  simp only [decodeSrc, decodeForm_encodeSrc r h, ok_bind, if_pos h]

theorem decodeArgs_encodeArgs {ts : List Ty} {l : List Src} (h : fitsPorts ts l = true) :
    decodeArgs ts (encodeArgs l ++ r) = .ok (l, r) := by
  induction ts, l using fitsPorts.induct with
  | case1 => rfl
  | case2 t ts a l ih =>
    obtain ⟨ha, hl⟩ : a.fits t = true ∧ fitsPorts ts l = true := by simpa [fitsPorts] using h
    simp only [encodeArgs, decodeArgs, List.append_assoc, decodeSrc_encodeSrc _ ha, ih hl, ok_bind]
  | case3 ts l hnil hcons => simp [fitsPorts] at h

end

/-! ### Instances and netlists -/

/-- Every instance is rebuilt from its component, name and arguments, and its code chooses the component. -/
theorem rebuild_statement (i : Instr) : Laws.Rebuild.Statement i := by
  cases i <;> exact ⟨rfl, rfl⟩

/-- The image of a well-formed instance gives it back, whatever follows. -/
theorem decode_encode {i : Instr} (h : i.wf = true) (r : List Byte) : decode (encode i ++ r) = .ok (i, r) := by
  obtain ⟨hbuild, hcode⟩ := rebuild_statement i
  simp only [encode, decode, decodeBody, List.cons_append, List.append_assoc, decodeByte_cons, decodeName_encodeName,
    hcode, decodeArgs_encodeArgs r h, hbuild, ok_bind]

/-- One instance, then those of the bytes it leaves. -/
theorem decodeAll_succ_of_decode {k : Nat} {bs r : List Byte} {i : Instr} {l : List Instr}
    (hi : decode bs = .ok (i, r)) (hl : decodeAll k r = .ok l) : decodeAll (k + 1) bs = .ok (i :: l) := by
  cases bs with
  | nil => cases hi
  | cons b bs => simp only [decodeAll, hi, hl, ok_bind]

/-- The instances of an image come back when the decoder may take as many instances as there are. -/
theorem decodeAll_encodeNetlist {l : List Instr} (h : ∀ i ∈ l, i.wf = true) {k : Nat} (hk : l.length ≤ k) :
    decodeAll k (encodeNetlist l) = .ok l := by
  induction l generalizing k with
  | nil => cases k <;> rfl
  | cons i l ih =>
    obtain ⟨hi, hl⟩ := List.forall_mem_cons.mp h
    cases k with
    | zero => cases hk
    | succ k => exact decodeAll_succ_of_decode (decode_encode hi _) (ih hl (Nat.le_of_succ_le_succ hk))

/-- Every instance takes at least one byte of the image. -/
theorem length_le_encodeNetlist_length (l : List Instr) : l.length ≤ (encodeNetlist l).length := by
  induction l with
  | nil => exact Nat.le_refl 0
  | cons i l ih =>
    simp only [encodeNetlist, encode, List.length_append, List.length_cons]
    omega

end Sys2Proof

namespace Sys2Proof.Machine

/-- Positions that all read are read in order. -/
theorem readBitSrcs_eq_ok {s : State} {bs : List BitSrc} {l : List Bit} (h : bs.map s.readBitSrc = l.map .ok) :
    s.readBitSrcs bs = .ok l := by
  induction bs generalizing l with
  | nil =>
    obtain rfl : l = [] := by simpa using h
    rfl
  | cons b bs ih =>
    obtain ⟨x, xs, rfl, hb, hbs⟩ := List.map_eq_cons_iff.mp h.symm
    rw [State.readBitSrcs, ← hb, ih hbs.symm]
    rfl

/-- A bus given position by position reads as the bus of what its positions read as. -/
theorem read_assemble {s : State} {bs : List BitSrc} {l : List Bit} {u : Value} (h : s.readBitSrcs bs = .ok l)
    (hu : busOfBits l = some u) : s.read (.assemble bs) = .ok u := by
  simp only [State.read, h, ok_bind, hu]

end Sys2Proof.Machine

namespace Sys2Proof.Proofs

open Sys2Proof.Machine

/-- Settles O33: the code chooses the component, the name comes back, and each argument fits its port
(`decodeArgs_encodeArgs`). -/
theorem decodeInvertsEncode : Obligations.DecodeInvertsEncode := fun _ rest h => decode_encode h rest

/-- Settles O34: there are at least as many bytes as instances, which is what `decodeAll` may take. -/
theorem netlistImageRoundTrip : Obligations.NetlistImageRoundTrip :=
  fun l h => decodeAll_encodeNetlist h (length_le_encodeNetlist_length l)

/-- Settles O38: the positions read in order, and a list of a bus's width is the bus with those positions. -/
theorem assembledBusHasItsPositions : Obligations.AssembledBusHasItsPositions := by
  intro s bs l t ht h
  have hlen : bs.length = l.length := by simpa using congrArg List.length h
  obtain ⟨u, hu, hty, hbits⟩ := busOfBits_eq_some (hlen ▸ ht)
  exact ⟨u, read_assemble (readBitSrcs_eq_ok h) hu, hty, hbits⟩

end Sys2Proof.Proofs
end
